-- ==== Sys2Proof/Word.lean ====
section
/-! DEFINITION. The word and limb-array types (spec/00_scope.md R8, R14, R19). -/

namespace Sys2Proof

/-- The 32-bit word: every limb, WAU operand and WAU result (R8). -/
abbrev Word := BitVec 32

/-- A one-bit register, such as CIN and COUT (spec/10_state.md R31). -/
abbrev Bit := BitVec 1

/-- A limb array: 32-bit words, least significant first (R14, R19, R70). Its length is its width in limbs. -/
abbrev Limbs := List Word

end Sys2Proof
end

