-- ==== Sys2Proof/Config.lean ====
section
/-! DEFINITION. The identity of the block (spec/00_scope.md R3) and its parameters: the family of widths, the five engine instantiations
(spec/00_scope.md R10, R12), and what the spec leaves open, as constants without a body. -/

namespace Sys2Proof

/-- What names the hardware (R3). -/
structure Identity where
  block : String
  units : List String
  wordBits : Nat
  source : String
  /-- The revision of the source document, `none` where it states none. -/
  revision : Option String
deriving DecidableEq, Repr

/-- The identity R3 has a model record. -/
def identity : Identity where
  block := "gls254 CORE"
  units := ["WAU", "FWI", "LRE"]
  wordBits := 32
  source := "the source"
  revision := none

/-- The eleven fixed widths, in bits (R10; the list wins over the count, spec/90_conflicts.md C1). -/
inductive Width where
  | w128 | w192 | w256 | w320 | w384 | w448 | w512 | w640 | w768 | w896 | w1024
deriving DecidableEq, Repr

/-- The five engine instantiations, named by their operand width N1 (R12). -/
inductive Inst where
  | i256 | i320 | i384 | i448 | i512
deriving DecidableEq, Repr, Inhabited

/-- OPEN parameter N2[inst] (R12, D9): which of the three admissible widths the implementation has,
in rising order. No body: nothing can be proved of the choice (notes/assumptions/10.md). -/
opaque Config.n2Choice : Inst → Fin 3

/-- FREE VALUE of `w` bits, the `c`-th drawn: an unspecified register after a reset event, the word a read of
CMD returns (R51, R37; notes/assumptions/3.md, 4.md). -/
opaque Config.freeBits (w : Nat) : Nat → BitVec w

/-- FREE VALUE of a number from 0 to `m`, the `c`-th drawn: STALLC and PREVBL after a reset event
(notes/assumptions/3.md, 14.md). -/
opaque Config.freeUpTo (m : Nat) : Nat → Fin (m + 1)

/-- FREE VALUE of an instantiation, the `c`-th drawn: INST after a reset event (notes/assumptions/3.md). -/
opaque Config.freeInst : Nat → Inst

end Sys2Proof
end

