-- ==== Sys2Proof/Syntax.lean ====
section
/-! DEFINITION. The commands: one constructor per row of spec/opcode_table.json (spec/30_encoding.md R96). -/

namespace Sys2Proof

/-- A command. A format-Z command carries the width its WSEL field selects (R93, R94); a format-W command
carries nothing (R92). No command carries an operand (R95). -/
inductive Instr where
  | addcarry
  | subborrow
  | umul
  | umulAdd
  | umulAdd2
  | signMask
  | leadingZeroCount
  | lessThan (w : Width)
  | swap (w : Width)
  | bitLength (w : Width)
  | fitsBelow (w : Width)
  | isNegative (w : Width)
  | addShifted (w : Width)
  | subShifted (w : Width)
  | reduce (w : Width)
  | reduce254 (w : Width)
deriving DecidableEq, Repr

/-- The five faults of the block (spec/60_exceptions.md R221). -/
inductive CmdFault where
  /-- Reserved bits, unassigned unit or function, WSEL not 0 in a WAU command (code 1). -/
  | illegalCmd
  /-- A width code the command does not accept (code 2). -/
  | illegalWsel
  /-- `fits_below` with S = 0 or S above the limb count (code 3). -/
  | badOperand
  /-- A reduce whose k is not below its n (code 4). -/
  | kGeN
  /-- A CMD write while a reduce runs (code 5). -/
  | busyCmd
deriving DecidableEq, Repr

end Sys2Proof
end

