-- ==== Sys2Proof/WellFormed.lean ====
section
/-! DEFINITION. Which commands an accepted word can stand for (spec/30_encoding.md R94). -/

namespace Sys2Proof

/-- The widths a `reduce` accepts, those of WSEL 2 to 6 (R94). -/
def Width.namesInstantiation : Width → Bool
  | .w256 | .w320 | .w384 | .w448 | .w512 => true
  | .w128 | .w192 | .w640 | .w768 | .w896 | .w1024 => false

/-- `reduce` takes the widths of WSEL 2 to 6, `reduce254` the width of WSEL 2; every other command is
well-formed at every width (R94, R98). -/
def Instr.wellFormed : Instr → Bool
  | .reduce w => w.namesInstantiation
  | .reduce254 w => w = .w256
  | .addcarry | .subborrow | .umul | .umulAdd | .umulAdd2 | .signMask | .leadingZeroCount => true
  | .lessThan _ | .swap _ | .bitLength _ | .fitsBelow _ | .isNegative _ | .addShifted _ | .subShifted _ => true

end Sys2Proof
end

