-- ==== Sys2Proof/Decode.lean ====
section
/-! DEFINITION. Decoding and encoding of the command word (spec/30_encoding.md R90 to R98). -/

namespace Sys2Proof

/-- What a word written to CMD decodes to: a command, or the fault that rejects it by name (R97). -/
inductive Decoded where
  | cmd (i : Instr)
  | illegal (c : CmdFault)
deriving DecidableEq, Repr

/-- FUNC, bits 3:0 (R91). -/
def funcField (w : Word) : BitVec 4 := w.extractLsb' 0 4
/-- UNIT, bits 5:4 (R91). -/
def unitField (w : Word) : BitVec 2 := w.extractLsb' 4 2
/-- RSV0, bits 7:6 (R91). -/
def rsv0Field (w : Word) : BitVec 2 := w.extractLsb' 6 2
/-- WSEL, bits 11:8 (R91). -/
def wselField (w : Word) : BitVec 4 := w.extractLsb' 8 4
/-- RSV1, bits 31:12 (R91). -/
def rsv1Field (w : Word) : BitVec 20 := w.extractLsb' 12 20

/-- The width a WSEL code selects; 11 to 15 are reserved (R94). -/
def widthOfWsel (c : BitVec 4) : Option Width :=
  match c.toNat with
  | 0 => some .w128
  | 1 => some .w192
  | 2 => some .w256
  | 3 => some .w320
  | 4 => some .w384
  | 5 => some .w448
  | 6 => some .w512
  | 7 => some .w640
  | 8 => some .w768
  | 9 => some .w896
  | 10 => some .w1024
  | _ => none

/-- The WSEL code of a width (R94). -/
def wselOfWidth : Width → BitVec 4
  | .w128 => 0
  | .w192 => 1
  | .w256 => 2
  | .w320 => 3
  | .w384 => 4
  | .w448 => 5
  | .w512 => 6
  | .w640 => 7
  | .w768 => 8
  | .w896 => 9
  | .w1024 => 10

/-- The WAU command of a function code (R96, R97). -/
def wauOfFunc (f : BitVec 4) : Option Instr :=
  match f.toNat with
  | 0 => some .addcarry
  | 1 => some .subborrow
  | 2 => some .umul
  | 3 => some .umulAdd
  | 4 => some .umulAdd2
  | 5 => some .signMask
  | 6 => some .leadingZeroCount
  | _ => none

/-- The FWI command of a function code, still to be given its width (R96, R97). -/
def fwiOfFunc (f : BitVec 4) : Option (Width → Instr) :=
  match f.toNat with
  | 0 => some .lessThan
  | 1 => some .swap
  | 2 => some .bitLength
  | 3 => some .fitsBelow
  | 4 => some .isNegative
  | 5 => some .addShifted
  | 6 => some .subShifted
  | _ => none

/-- The LRE command of a function code, still to be given its width (R96, R97). -/
def lreOfFunc (f : BitVec 4) : Option (Width → Instr) :=
  match f.toNat with
  | 0 => some .reduce
  | 1 => some .reduce254
  | _ => none

/-- The width test of a format-Z command, after its function is known: a reserved code, or a code the command does
not accept, is ILLEGAL_WSEL (R97, R98). -/
def atWidth (c : BitVec 4) (mk : Width → Instr) : Decoded :=
  match widthOfWsel c with
  | none => .illegal .illegalWsel
  | some w => if (mk w).wellFormed then .cmd (mk w) else .illegal .illegalWsel

/-- The decoder, test by test in the order of R97. -/
def decode (w : Word) : Decoded :=
  if rsv1Field w ≠ 0 ∨ rsv0Field w ≠ 0 then .illegal .illegalCmd
  else
    match (unitField w).toNat with
    | 0 =>
      match wauOfFunc (funcField w) with
      | none => .illegal .illegalCmd
      | some i => if wselField w ≠ 0 then .illegal .illegalCmd else .cmd i
    | 1 =>
      match fwiOfFunc (funcField w) with
      | none => .illegal .illegalCmd
      | some mk => atWidth (wselField w) mk
    | 2 =>
      match lreOfFunc (funcField w) with
      | none => .illegal .illegalCmd
      | some mk => atWidth (wselField w) mk
    | _ => .illegal .illegalCmd

/-- A word from its OPC (bits 7:0) and WSEL fields, the reserved fields 0 (R91). -/
def commandWord (opc : BitVec 8) (wsel : BitVec 4) : Word :=
  opc.setWidth 32 + (wsel.setWidth 32 <<< 8)

/-- The word of a command: `match + (WSEL << 8)` with the match of R96 (R102). -/
def encode : Instr → Word
  | .addcarry => commandWord 0x00 0
  | .subborrow => commandWord 0x01 0
  | .umul => commandWord 0x02 0
  | .umulAdd => commandWord 0x03 0
  | .umulAdd2 => commandWord 0x04 0
  | .signMask => commandWord 0x05 0
  | .leadingZeroCount => commandWord 0x06 0
  | .lessThan w => commandWord 0x10 (wselOfWidth w)
  | .swap w => commandWord 0x11 (wselOfWidth w)
  | .bitLength w => commandWord 0x12 (wselOfWidth w)
  | .fitsBelow w => commandWord 0x13 (wselOfWidth w)
  | .isNegative w => commandWord 0x14 (wselOfWidth w)
  | .addShifted w => commandWord 0x15 (wselOfWidth w)
  | .subShifted w => commandWord 0x16 (wselOfWidth w)
  | .reduce w => commandWord 0x20 (wselOfWidth w)
  | .reduce254 w => commandWord 0x21 (wselOfWidth w)

/-- The row of R96 a command belongs to: its `match` and `mask`, a word `v` being of the row when
`v &&& mask = match`. -/
def opcodeRow : Instr → Word × Word
  | .addcarry => (0x00000000, 0xFFFFFFFF)
  | .subborrow => (0x00000001, 0xFFFFFFFF)
  | .umul => (0x00000002, 0xFFFFFFFF)
  | .umulAdd => (0x00000003, 0xFFFFFFFF)
  | .umulAdd2 => (0x00000004, 0xFFFFFFFF)
  | .signMask => (0x00000005, 0xFFFFFFFF)
  | .leadingZeroCount => (0x00000006, 0xFFFFFFFF)
  | .lessThan _ => (0x00000010, 0xFFFFF0FF)
  | .swap _ => (0x00000011, 0xFFFFF0FF)
  | .bitLength _ => (0x00000012, 0xFFFFF0FF)
  | .fitsBelow _ => (0x00000013, 0xFFFFF0FF)
  | .isNegative _ => (0x00000014, 0xFFFFF0FF)
  | .addShifted _ => (0x00000015, 0xFFFFF0FF)
  | .subShifted _ => (0x00000016, 0xFFFFF0FF)
  | .reduce _ => (0x00000020, 0xFFFFF0FF)
  | .reduce254 _ => (0x00000021, 0xFFFFF0FF)

/-- The word that the low `nbits` bits of `w` spell, every bit above them 0. A command is one whole 32-bit
register value, so no byte order enters (R71, R90). -/
def tableWord (nbits w : Nat) : Word := BitVec.ofNat 32 (w % 2 ^ nbits)

/-- The instruction the decoder reads from a word numbered as spec/opcode_table.json numbers its bits. -/
def decodeTableWord (nbits w : Nat) : Option Instr :=
  match decode (tableWord nbits w) with
  | .cmd i => some i
  | .illegal _ => none

end Sys2Proof
end

