-- ==== Sys2Proof/Machine/State.lean ====
section
/-! DEFINITION. The state of the block and its environment, as plain data (spec/10_state.md R30 to R52), and
the state right after reset. -/

namespace Sys2Proof.Machine

/-- The reasons a step could end in a Host fault. There is none: the five faults of the block (R221) are taken
as next states by `raiseFault` (R224), and no other cause of a fault exists (R225; notes/assumptions/8.md). -/
inductive Fault where
deriving DecidableEq, Repr

/-- The reasons a step can be refused. -/
inductive Refusal where
  /-- Raised by an arm of `exec` whose instruction has no meaning yet; no arm is in that case. Safe. -/
  | notModelled (mnemonic : String)
  /-- Raised by `step` when anything but a reset comes to a machine that was never reset: before the first
  reset no rule applies (spec/70_reset_and_hazards.md R253, spec/93 U26: refuse). Safe. -/
  | beforeFirstReset
deriving DecidableEq, Repr

/-- STATUS.ST, the block state (R39). -/
inductive BlockState where
  | idle | busy | done | fault
deriving DecidableEq, Repr

/-- STATUS.TERM, why the last completed reduce ended (R40). -/
inductive Term where
  | none | budget | stall
deriving DecidableEq, Repr

/-- LSTATE, the engine's control state (R45). -/
inductive LState where
  | idle | p1 | p2
deriving DecidableEq, Repr

/-- The host-visible registers by name, limb arrays with a limb index (R31, R81). -/
inductive Reg where
  | xw | yw | z1w | z2w | cin | s
  | a (i : Fin 32) | b (i : Fin 32)
  | rlo | rhi | rn | cout
  | c0 (i : Fin 8) | c1 (i : Fin 8)
  | cmd | status
deriving DecidableEq, Repr

/-- One event at the block: a host access, an engine step, a reset (spec/60_exceptions.md R231). -/
inductive Event where
  /-- HostRead(reg) (R81). -/
  | read (r : Reg)
  /-- HostWrite(reg, v) (R81); a write to CMD starts a command (R37). -/
  | write (r : Reg) (v : Word)
  /-- The pseudo-command MOVF: read COUT, then write that value to CIN (R103). -/
  | movf
  /-- The pseudo-command WAIT: read STATUS until ST is not BUSY (R103). -/
  | wait
  /-- The engine takes its next step at this point of the interleaving (R77, R198). -/
  | engine
  /-- The reset input (spec/70_reset_and_hazards.md R250). -/
  | reset
deriving DecidableEq, Repr

/-- The engine's working registers, out of the host's reach (R43 to R49). A limb list has as many limbs as its
register has at that point of the run (R44). -/
structure Engine where
  u0 : Limbs
  u1 : Limbs
  v0 : Limbs
  v1 : Limbs
  nu : Limbs
  nv : Limbs
  sp : Limbs
  lstate : LState
  first : Bool
  stallc : Nat
  prevbl : Nat
  prevv : Bool
  maxbl : Word
  inst : Inst
deriving DecidableEq, Repr

/-- The state. CMD has no stored value (R37, R50); STATUS is kept as its three fields, bits 31:8 being
hardwired (R38). The last four fields are the model's own (INVENTORY.md, "State"). -/
structure State where
  xw : Word
  yw : Word
  z1w : Word
  z2w : Word
  cin : Bit
  sReg : Word
  a : Vector Word 32
  b : Vector Word 32
  rlo : Word
  rhi : Word
  rn : Word
  cout : Bit
  c0 : Vector Word 8
  c1 : Vector Word 8
  st : BlockState
  term : Term
  /-- Why the last finished reduce ended: what a read of TERM gives while the next one runs (R255, spec/93 U19;
  notes/assumptions/18.md). -/
  lastTerm : Term
  fcode : Option CmdFault
  eng : Engine
  /-- Events still to happen, first first (notes/assumptions/1.md). -/
  inbox : List Event
  /-- Values HostRead returned, latest first (notes/assumptions/9.md). -/
  readLog : List Word
  /-- How many free values have been drawn (notes/assumptions/5.md). -/
  freeCount : Nat
  /-- Whether a reset has happened since power-on (notes/assumptions/6.md). -/
  wasReset : Bool
deriving DecidableEq, Repr

/-- What a meaning answers. -/
abbrev Result := Host.Outcome State Fault Refusal

/-- The engine's registers in the state right after reset: LSTATE as R50 says, the unspecified ones at the
DESIGN CHOICE values of notes/assumptions/2.md. -/
def Engine.reset : Engine where
  u0 := List.replicate 4 0
  u1 := List.replicate 4 0
  v0 := List.replicate 4 0
  v1 := List.replicate 4 0
  nu := List.replicate 16 0
  nv := List.replicate 16 0
  sp := List.replicate 16 0
  lstate := .idle
  first := false
  stallc := 0
  prevbl := 0
  prevv := false
  maxbl := 0
  inst := .i256

/-- The machine right after reset: ST IDLE, TERM NONE (no reduce has finished), FCODE 0, LSTATE idle (R50, R251); every register R50
calls unspecified at the DESIGN CHOICE value of notes/assumptions/2.md; no event waiting. -/
def State.reset : State where
  xw := 0
  yw := 0
  z1w := 0
  z2w := 0
  cin := 0
  sReg := 0
  a := Vector.replicate 32 0
  b := Vector.replicate 32 0
  rlo := 0
  rhi := 0
  rn := 0
  cout := 0
  c0 := Vector.replicate 8 0
  c1 := Vector.replicate 8 0
  st := .idle
  term := .none
  lastTerm := .none
  fcode := none
  eng := Engine.reset
  inbox := []
  readLog := []
  freeCount := 0
  wasReset := true

end Sys2Proof.Machine
end

