-- ==== Sys2Proof/Machine/Operands.lean ====
section
/-! DEFINITION. Operands: the widths in limbs, the values of a limb array, and how a command reads and writes the
low limbs of a limb-array register (spec/00_scope.md R10 to R15, spec/10_state.md R34, R36). -/

namespace Sys2Proof.Machine

/-- The limbs of a width: L = W / 32 (R10, R94). -/
def widthLimbs : Width → Nat
  | .w128 => 4
  | .w192 => 6
  | .w256 => 8
  | .w320 => 10
  | .w384 => 12
  | .w448 => 14
  | .w512 => 16
  | .w640 => 20
  | .w768 => 24
  | .w896 => 28
  | .w1024 => 32

/-- The instantiation whose operand width N1 this is, if there is one (R12). -/
def instOfWidth : Width → Option Inst
  | .w256 => some .i256
  | .w320 => some .i320
  | .w384 => some .i384
  | .w448 => some .i448
  | .w512 => some .i512
  | .w128 | .w192 | .w640 | .w768 | .w896 | .w1024 => none

/-- L0, the limbs of a coordinate (R12; 90_conflicts.md C2). -/
def instL0 : Inst → Nat
  | .i256 => 4
  | .i320 => 6
  | .i384 => 6
  | .i448 => 8
  | .i512 => 8

/-- L1, the limbs of an operand k or n (R12). -/
def instL1 : Inst → Nat
  | .i256 => 8
  | .i320 => 10
  | .i384 => 12
  | .i448 => 14
  | .i512 => 16

/-- L3, the limbs of a Gram value before the shrink: N3 = 2·N1 (R11, R12). -/
def instL3 (i : Inst) : Nat := 2 * instL1 i

/-- The three admissible values of L2, in rising order (R12, column "N2 may be"). -/
def admissibleL2 : Inst → Nat × Nat × Nat
  | .i256 => (10, 12, 14)
  | .i320 => (12, 14, 16)
  | .i384 => (14, 16, 20)
  | .i448 => (16, 20, 24)
  | .i512 => (20, 24, 28)

/-- The value of L2 for a choice among the admissible ones. -/
def chosenL2 (i : Inst) (c : Fin 3) : Nat :=
  match c with
  | 0 => (admissibleL2 i).1
  | 1 => (admissibleL2 i).2.1
  | 2 => (admissibleL2 i).2.2

/-- L2, the limbs of a Gram value after the shrink: the OPEN parameter N2[inst] (R12; notes/assumptions/10.md). -/
def instL2 (i : Inst) : Nat := chosenL2 i (Config.n2Choice i)

/-- `uval`, the unsigned value of a limb array (R15). -/
def uval : Limbs → Nat
  | [] => 0
  | w :: ws => w.toNat + 2 ^ 32 * uval ws

/-- The width of a limb array in bits. -/
def bitWidth (x : Limbs) : Nat := 32 * x.length

/-- `is_negative`: the top bit of the top limb (R15, spec/41_fixed_width_integer.md R153). -/
def isNegative (x : Limbs) : Bool := (x.getLastD 0).msb

/-- `sval`, the two's-complement value of a limb array (R15). -/
def sval (x : Limbs) : Int :=
  if isNegative x then (uval x : Int) - 2 ^ bitWidth x else uval x

/-- The `l` low limbs of a natural number. -/
def natLimbs : Nat → Nat → Limbs
  | 0, _ => []
  | l + 1, n => BitVec.ofNat 32 n :: natLimbs l (n / 2 ^ 32)

/-- `limbs_L`: the array of `l` limbs whose unsigned value is `v mod 2^(32·l)` (R15). -/
def limbsOf : Nat → Int → Limbs
  | 0, _ => []
  | l + 1, v => BitVec.ofInt 32 v :: limbsOf l (v / 2 ^ 32)

/-- The operand a command of `l` limbs reads from a limb-array register: limbs 0 to l−1 (spec/10_state.md R34). -/
def lowLimbs {n : Nat} (r : Vector Word n) (l : Nat) : Limbs := r.toList.take l

/-- The limbs of `r` with the low ones replaced by those of `x`, as far as there are limbs to replace. -/
def overwrite : Limbs → Limbs → Limbs
  | [], r => r
  | _ :: _, [] => []
  | w :: x, _ :: r => w :: overwrite x r

theorem overwrite_length (x r : Limbs) : (overwrite x r).length = r.length := by
  induction x generalizing r with
  | nil => rfl
  | cons w x ih =>
    cases r with
    | nil => rfl
    | cons v r => simp [overwrite, ih]

/-- `R[0..l-1] <- x`: the low limbs are written, the others keep their values (R16, R34, R36). -/
def storeLow {n : Nat} (r : Vector Word n) (x : Limbs) : Vector Word n :=
  ⟨(overwrite x r.toList).toArray, by simp [overwrite_length]⟩

end Sys2Proof.Machine
end

