-- ==== Sys2Proof/Machine/Flags.lean ====
section
/-! DEFINITION. The one-bit results: the carry and borrow of the WAU links and the Booleans of the FWI, all
delivered in COUT (spec/10_state.md R42). -/

namespace Sys2Proof.Machine

/-- A Boolean in a one-bit register: true is 1 (spec/00_scope.md R16). -/
def flagBit (c : Bool) : Bit := BitVec.ofBool c

/-- The carry out of one addition link: the sum divided by 2^32 (spec/40_widening_arith.md R121). -/
def carryOut (x y : Word) (c : Bit) : Bit := BitVec.ofNat 1 ((x.toNat + y.toNat + c.toNat) / 2 ^ 32)

/-- The borrow out of one subtraction link: 1 when the difference is negative (R122). -/
def borrowOut (x y : Word) (c : Bit) : Bit := flagBit ((x.toNat : Int) - y.toNat - c.toNat < 0)

/-- `less_than(a, b)`: the unsigned comparison of the raw limbs (spec/41_fixed_width_integer.md R143). -/
def lessThan (x y : Limbs) : Bool := uval x < uval y

/-- `fits_below(a, s)` for 0 < s ≤ L: every limb at or above `s` is zero and the top bit of limb s−1 is clear
(R150; 90_conflicts.md C7). -/
def fitsBelow (x : Limbs) (s : Nat) : Bool :=
  (x.drop s).all (· == 0) && !(x.getD (s - 1) 0).msb

end Sys2Proof.Machine
end

