-- ==== Sys2Proof/Machine/Arith.lean ====
section
/-! DEFINITION. The arithmetic of the WAU and the FWI as functions of operand values; the commands and the engine
both call these (spec/40_widening_arith.md, spec/41_fixed_width_integer.md). -/

namespace Sys2Proof.Machine

/-- The low word of a non-negative result of up to 64 bits (R123). -/
def lowWord (p : Nat) : Word := BitVec.ofNat 32 p

/-- The high word of a non-negative result of up to 64 bits (R123). -/
def highWord (p : Nat) : Word := BitVec.ofNat 32 (p / 2 ^ 32)

/-- The sum of one addition link (R121). -/
def sumWord (x y : Word) (c : Bit) : Word := lowWord (x.toNat + y.toNat + c.toNat)

/-- The difference of one subtraction link, modulo 2^32 (R122). -/
def diffWord (x y : Word) (c : Bit) : Word := BitVec.ofInt 32 ((x.toNat : Int) - y.toNat - c.toNat)

/-- The exact product with two addends; the largest value is 2^64 − 1 (R123, R124, R125). -/
def fusedProduct (x y z1 z2 : Word) : Nat := x.toNat * y.toNat + z1.toNat + z2.toNat

/-- `sign_mask(x)`: all ones if the top bit of `x` is set, else zero (R126). -/
def signMask (x : Word) : Word := if x.msb then BitVec.allOnes 32 else 0

/-- `leading_zero_count(x)`: 32 for zero, else 31 less the index of the highest set bit (R127). -/
def leadingZeros (x : Word) : Nat := if x = 0 then 32 else 31 - Nat.log2 x.toNat

/-- The limbs of the magnitude `bit_length` measures: the array itself when non-negative, its bitwise complement,
−a − 1, when negative (R147, R19; notes/assumptions/16.md). -/
def magnitudeLimbs (x : Limbs) : Limbs := if isNegative x then x.map (~~~·) else x

/-- `bit_length(a)`: the least m with magnitude below 2^m (R147). -/
def bitLength (x : Limbs) : Nat :=
  let m := uval (magnitudeLimbs x)
  if m = 0 then 0 else Nat.log2 m + 1

/-- `shl_W(b, s)`: the value shifted left, the low W bits kept; zero when s ≥ W (R142; notes/assumptions/16.md). -/
def shiftLeft (x : Limbs) (s : Nat) : Limbs :=
  if bitWidth x ≤ s then List.replicate x.length 0 else natLimbs x.length (uval x * 2 ^ s)

/-- `add_shifted(a, b, s)`: (a + b·2^s) mod 2^W (R156). -/
def addShifted (x y : Limbs) (s : Nat) : Limbs :=
  limbsOf x.length ((uval x : Int) + uval (shiftLeft y s))

/-- `sub_shifted(a, b, s)`: (a − b·2^s) mod 2^W (R159). -/
def subShifted (x y : Limbs) (s : Nat) : Limbs :=
  limbsOf x.length ((uval x : Int) - uval (shiftLeft y s))

end Sys2Proof.Machine
end

