-- ==== Sys2Proof/Machine/Ops.lean ====
section
/-! DEFINITION. The named operations over the registers: reading and writing them, completing a command, taking a
fault and leaving it by reset (spec/10_state.md, spec/60_exceptions.md R224, spec/70_reset_and_hazards.md R251). -/

namespace Sys2Proof.Machine

/-- The encoding of ST (R38, R39). -/
def stCode : BlockState → BitVec 2
  | .idle => 0
  | .busy => 1
  | .done => 2
  | .fault => 3

/-- The encoding of TERM (R38). -/
def termCode : Term → BitVec 2
  | .none => 0
  | .budget => 1
  | .stall => 2

/-- The code of a fault in FCODE (spec/60_exceptions.md R221). -/
def faultCode : CmdFault → BitVec 4
  | .illegalCmd => 1
  | .illegalWsel => 2
  | .badOperand => 3
  | .kGeN => 4
  | .busyCmd => 5

/-- The FCODE field: 0 when there is no fault (R38, R41). -/
def fcodeField : Option CmdFault → BitVec 4
  | none => 0
  | some c => faultCode c

/-- TERM as a host reads it: while a reduce runs, the stale value of the last finished one (R255, spec/93 U19); else the field
(R38, R40). DEDUCED, from rules that differ (notes/assumptions/18.md). -/
def termShown (s : State) : Term :=
  match s.st with
  | .busy => s.lastTerm
  | .idle | .done | .fault => s.term

/-- The STATUS word: FCODE 7:4, TERM 3:2, ST 1:0, bits 31:8 hardwired 0 (R38). -/
def statusWord (s : State) : Word :=
  (0 : BitVec 24) ++ fcodeField s.fcode ++ termCode (termShown s) ++ stCode s.st

/-- The value a host read returns: the register's current value, a one-bit register zero-extended
(spec/20_memory.md R81); a read of CMD gives a free value (R37; notes/assumptions/4.md). -/
def readReg (s : State) : Reg → Word
  | .xw => s.xw
  | .yw => s.yw
  | .z1w => s.z1w
  | .z2w => s.z2w
  | .cin => s.cin.setWidth 32
  | .s => s.sReg
  | .a i => s.a[i]
  | .b i => s.b[i]
  | .rlo => s.rlo
  | .rhi => s.rhi
  | .rn => s.rn
  | .cout => s.cout.setWidth 32
  | .c0 i => s.c0[i]
  | .c1 i => s.c1[i]
  | .cmd => Config.freeBits 32 s.freeCount
  | .status => statusWord s

/-- A free value is drawn at every read of CMD, and at no other read. -/
def drawsOnRead (r : Reg) : Nat := if r = .cmd then 1 else 0

/-- HostRead: the value goes to the host; no register changes (R74, R81). -/
def hostRead (r : Reg) (s : State) : State :=
  { s with readLog := readReg s r :: s.readLog, freeCount := s.freeCount + drawsOnRead r }

/-- HostWrite to a register other than CMD: an operand register takes the low bits of the value, a write to a
result register or to STATUS is ignored (R35, R38, R52). -/
def writeReg (r : Reg) (v : Word) (s : State) : State :=
  match r with
  | .xw => { s with xw := v }
  | .yw => { s with yw := v }
  | .z1w => { s with z1w := v }
  | .z2w => { s with z2w := v }
  | .cin => { s with cin := v.setWidth 1 }
  | .s => { s with sReg := v }
  | .a i => { s with a := s.a.set i v }
  | .b i => { s with b := s.b.set i v }
  | .rlo | .rhi | .rn | .cout | .c0 _ | .c1 _ | .status | .cmd => s

/-- A WAU or FWI command completes: ST DONE, TERM NONE (R39, R40, R120, R140). -/
def complete (s : State) : State := { s with st := .done, term := .none }

/-- Results of an addition or subtraction link: RLO and COUT (R121, R122). -/
def putLink (lo : Word) (c : Bit) (s : State) : State := { s with rlo := lo, cout := c }

/-- Result of a multiply: RLO and RHI (R123, R124, R125). -/
def putProduct (p : Nat) (s : State) : State := { s with rlo := lowWord p, rhi := highWord p }

/-- A word result in RLO alone (R126). -/
def putRlo (w : Word) (s : State) : State := { s with rlo := w }

/-- A count in RN, zero-extended (R127, R147). -/
def putRn (n : Nat) (s : State) : State := { s with rn := BitVec.ofNat 32 n }

/-- A Boolean in COUT (R143, R150, R153). -/
def putFlag (c : Bool) (s : State) : State := { s with cout := flagBit c }

/-- `A[0..L-1] <- x` (R34). -/
def putA (x : Limbs) (s : State) : State := { s with a := storeLow s.a x }

/-- `B[0..L-1] <- x` (R34). -/
def putB (x : Limbs) (s : State) : State := { s with b := storeLow s.b x }

/-- TAKING A FAULT, `raise Fault(code)`: ST FAULT, FCODE the code, TERM NONE, LSTATE idle, nothing else
(spec/60_exceptions.md R224). -/
def raiseFault (c : CmdFault) (s : State) : State :=
  { s with st := .fault, fcode := some c, term := .none, eng.lstate := .idle }

/-- A limb array of `l` limbs that holds the `c`-th free value. -/
def freeLimbs (l c : Nat) : Limbs := natLimbs l (Config.freeBits (32 * l) c).toNat

/-- A limb-array register of `n` limbs that holds the `c`-th free value. -/
def freeArray (n c : Nat) : Vector Word n := storeLow (Vector.replicate n 0) (freeLimbs n c)

/-- The engine after a reset event: LSTATE idle, every other register a free value (R251). -/
def resetEngine (c : Nat) : Engine :=
  let i := Config.freeInst (c + 14)
  { u0 := freeLimbs (instL0 i) (c + 15)
    u1 := freeLimbs (instL0 i) (c + 16)
    v0 := freeLimbs (instL0 i) (c + 17)
    v1 := freeLimbs (instL0 i) (c + 18)
    nu := freeLimbs (instL3 i) (c + 19)
    nv := freeLimbs (instL3 i) (c + 20)
    sp := freeLimbs (instL3 i) (c + 21)
    lstate := .idle
    first := Config.freeBits 1 (c + 22) = 1
    stallc := Config.freeUpTo 4 (c + 23)
    prevbl := Config.freeUpTo 1024 (c + 24)
    prevv := Config.freeBits 1 (c + 25) = 1
    maxbl := Config.freeBits 32 (c + 26)
    inst := i }

/-- How many free values a reset event draws. -/
def resetDraws : Nat := 27

/-- THE RETURN FROM A FAULT, and from a run that does not end: the reset input. ST IDLE, TERM NONE, FCODE 0,
LSTATE idle, every other register unspecified, that is a free value (spec/70_reset_and_hazards.md R250 to R252).
What the host still does and what it has read are not the block's. -/
def resetEvent (s : State) : State :=
  let c := s.freeCount
  { xw := Config.freeBits 32 c
    yw := Config.freeBits 32 (c + 1)
    z1w := Config.freeBits 32 (c + 2)
    z2w := Config.freeBits 32 (c + 3)
    cin := Config.freeBits 1 (c + 4)
    sReg := Config.freeBits 32 (c + 5)
    a := freeArray 32 (c + 6)
    b := freeArray 32 (c + 7)
    rlo := Config.freeBits 32 (c + 8)
    rhi := Config.freeBits 32 (c + 9)
    rn := Config.freeBits 32 (c + 10)
    cout := Config.freeBits 1 (c + 11)
    c0 := freeArray 8 (c + 12)
    c1 := freeArray 8 (c + 13)
    st := .idle
    term := .none
    lastTerm := .none
    fcode := none
    eng := resetEngine c
    inbox := s.inbox
    readLog := s.readLog
    freeCount := c + resetDraws
    wasReset := true }

end Sys2Proof.Machine
end

