-- ==== Sys2Proof/Machine/Fwi.lean ====
section
/-! DEFINITION. The seven commands of the fixed-width integer unit (spec/41_fixed_width_integer.md). -/

namespace Sys2Proof.Machine

/-- The operand `a` of a command at width `w`: A[0..L-1] (R140). -/
def operandA (w : Width) (s : State) : Limbs := lowLimbs s.a (widthLimbs w)

/-- The operand `b` of a command at width `w`: B[0..L-1] (R140). -/
def operandB (w : Width) (s : State) : Limbs := lowLimbs s.b (widthLimbs w)

/-- `less_than` (R143). -/
def execLessThan (w : Width) (s : State) : Result :=
  .next (complete (putFlag (lessThan (operandA w s) (operandB w s)) s))

/-- `swap` (R145). -/
def execSwap (w : Width) (s : State) : Result :=
  .next (complete (putB (operandA w s) (putA (operandB w s) s)))

/-- `bit_length` (R147). -/
def execBitLength (w : Width) (s : State) : Result :=
  .next (complete (putRn (bitLength (operandA w s)) s))

/-- `fits_below`: BAD_OPERAND when S is 0 or above the limb count (R150, R151). -/
def execFitsBelow (w : Width) (s : State) : Result :=
  if s.sReg = 0 ∨ widthLimbs w < s.sReg.toNat then .next (raiseFault .badOperand s)
  else .next (complete (putFlag (fitsBelow (operandA w s) s.sReg.toNat) s))

/-- `is_negative` (R153). -/
def execIsNegative (w : Width) (s : State) : Result :=
  .next (complete (putFlag (isNegative (operandA w s)) s))

/-- `add_shifted` (R156). -/
def execAddShifted (w : Width) (s : State) : Result :=
  .next (complete (putA (addShifted (operandA w s) (operandB w s) s.sReg.toNat) s))

/-- `sub_shifted` (R159). -/
def execSubShifted (w : Width) (s : State) : Result :=
  .next (complete (putA (subShifted (operandA w s) (operandB w s) s.sReg.toNat) s))

end Sys2Proof.Machine
end

