-- ==== Sys2Proof/Machine/Engine.lean ====
section
/-! DEFINITION. The lattice reduction engine: initialisation, one iteration of each phase, the shrink, the guard and the
finish (spec/42_lattice_reduction.md R173 to R191, R198). -/

namespace Sys2Proof.Machine

/-- The phase-2 stall threshold (R190). -/
def stallThreshold : Nat := 3

/-- The fixed budget of `reduce254` (R199). -/
def fixedBudget : Word := 254

/-- The engine at acceptance, for operands k and n of L1 limbs: vectors truncated to N0 bits (R173), Gram values exact
at N3 bits (R174), control state (R176), budget and instantiation latched (R172, R48). PREVBL is not written. -/
def initEngine (i : Inst) (k n : Limbs) (budget : Word) (e : Engine) : Engine :=
  { u0 := n.take (instL0 i)
    u1 := natLimbs (instL0 i) 0
    v0 := k.take (instL0 i)
    v1 := natLimbs (instL0 i) 1
    nu := natLimbs (instL3 i) (uval n * uval n)
    nv := natLimbs (instL3 i) (uval k * uval k + 1)
    sp := natLimbs (instL3 i) (uval n * uval k)
    lstate := .p1
    first := true
    stallc := 0
    prevbl := e.prevbl
    prevv := false
    maxbl := budget
    inst := i }

/-- Part 1 of an iteration: when nu < nv the vectors and their norms change places; SP is not touched (R178). -/
def orderVectors (e : Engine) : Engine :=
  if lessThan e.nu e.nv then
    { e with u0 := e.v0, v0 := e.u0, u1 := e.v1, v1 := e.u1, nu := e.nv, nv := e.nu }
  else e

/-- Part 2, the budget test (R179). -/
def budgetMet (e : Engine) : Bool := bitLength e.nv ≤ e.maxbl.toNat

/-- Part 3, the shift: max(0, bit_length(sp) − bit_length(nv)) (R180). -/
def shiftAmount (e : Engine) : Nat := bitLength e.sp - bitLength e.nv

/-- Part 4, subtracting branch; NU is updated with the old SP (R181). -/
def subtractStep (s : Nat) (e : Engine) : Engine :=
  { e with
    u0 := subShifted e.u0 e.v0 s
    u1 := subShifted e.u1 e.v1 s
    nu := subShifted (addShifted e.nu e.nv (2 * s)) e.sp (s + 1)
    sp := subShifted e.sp e.nv s
    first := false }

/-- Part 4, adding branch (R182). -/
def addStep (s : Nat) (e : Engine) : Engine :=
  { e with
    u0 := addShifted e.u0 e.v0 s
    u1 := addShifted e.u1 e.v1 s
    nu := addShifted (addShifted e.nu e.nv (2 * s)) e.sp (s + 1)
    sp := addShifted e.sp e.nv s
    first := false }

/-- Part 4: subtract at the first iteration or when sp is not negative, add otherwise (R177, R181 to R183). -/
def reduceVector (e : Engine) : Engine :=
  if e.first || !isNegative e.sp then subtractStep (shiftAmount e) e else addStep (shiftAmount e) e

/-- The shrink: the low L2 limbs of the Gram values, and phase 2 from the next step on (R184, R185). -/
def shrink (l2 : Nat) (e : Engine) : Engine :=
  { e with nu := e.nu.take l2, nv := e.nv.take l2, sp := e.sp.take l2, lstate := .p2 }

/-- What one iteration answers: the run goes on, or it finishes for a reason, with the engine as it then stands. -/
inductive Iteration where
  | goesOn (e : Engine)
  | finishes (reason : Term) (e : Engine)
deriving DecidableEq, Repr

/-- A phase-1 iteration, for a Gram width of `l2` limbs after the shrink (R184). -/
def phase1 (l2 : Nat) (e : Engine) : Iteration :=
  let e1 := orderVectors e
  if budgetMet e1 then .finishes .budget e1
  else if fitsBelow e1.nu l2 then .goesOn (shrink l2 e1)
  else .goesOn (reduceVector e1)

/-- The guard's verdict on the new bit length of sp, with STALLC and PREVBL updated (R188). When the run ends here
PREVBL and PREVV keep their values. -/
def guardStep (e : Engine) : Iteration :=
  let blsp := bitLength e.sp
  if e.prevv && decide (e.prevbl ≤ blsp) then
    let e1 := { e with stallc := e.stallc + 1 }
    if e.prevbl < blsp ∨ stallThreshold < e1.stallc then .finishes .stall e1
    else .goesOn { e1 with prevbl := blsp, prevv := true }
  else .goesOn { e with stallc := 0, prevbl := blsp, prevv := true }

/-- A phase-2 iteration (R186). -/
def phase2 (e : Engine) : Iteration :=
  let e1 := orderVectors e
  if budgetMet e1 then .finishes .budget e1
  else
    match guardStep e1 with
    | .finishes r e2 => .finishes r e2
    | .goesOn e2 => .goesOn (reduceVector e2)

/-- `finish(reason)`: v to C0 and C1, TERM the reason, kept also as that of the last finished reduce, ST DONE, LSTATE idle (R191, R36). -/
def finishRun (reason : Term) (e : Engine) (s : State) : State :=
  { s with
    c0 := storeLow s.c0 e.v0
    c1 := storeLow s.c1 e.v1
    term := reason
    lastTerm := reason
    st := .done
    eng := { e with lstate := .idle } }

/-- The outcome of an iteration put into the state, in the same atomic step (R191, R198). -/
def applyIteration (r : Iteration) (s : State) : State :=
  match r with
  | .goesOn e => { s with eng := e }
  | .finishes reason e => finishRun reason e s

/-- One engine step; the engine has none while LSTATE is idle (R198, spec/60_exceptions.md R231). -/
def engineStep (s : State) : State :=
  match s.eng.lstate with
  | .idle => s
  | .p1 => applyIteration (phase1 (instL2 s.eng.inst) s.eng) s
  | .p2 => applyIteration (phase2 s.eng) s

/-- `j` engine steps with no host access between them. -/
def engineRun : Nat → State → State
  | 0, s => s
  | j + 1, s => engineRun j (engineStep s)

end Sys2Proof.Machine
end

