-- ==== Sys2Proof/Machine/Lre.lean ====
section
/-! DEFINITION. The two commands of the lattice reduction engine: acceptance (spec/42_lattice_reduction.md R171, R172,
R199). The run itself is Machine/Engine.lean. -/

namespace Sys2Proof.Machine

/-- Acceptance of a reduce for the instantiation of width `w` with a budget: K_GE_N unless k < n, else the engine is
initialised and ST is BUSY, TERM NONE (R172, R176, R40). What a host reads in TERM while BUSY is
still the last finished reduce's (`termShown`; notes/assumptions/18.md). A width that is no instantiation is ILLEGAL_WSEL
(R98); the decoder gives no such command (notes/assumptions/13.md). -/
def acceptReduce (w : Width) (budget : Word) (s : State) : State :=
  match instOfWidth w with
  | none => raiseFault .illegalWsel s
  | some i =>
    if lessThan (operandA w s) (operandB w s) then
      { s with st := .busy, term := .none, eng := initEngine i (operandA w s) (operandB w s) budget s.eng }
    else raiseFault .kGeN s

/-- `reduce`: the budget is S (R171, R172). -/
def execReduce (w : Width) (s : State) : Result := .next (acceptReduce w s.sReg s)

/-- `reduce254`: `reduce` at width 256 with the budget 254; another width is ILLEGAL_WSEL (R199, R98). -/
def execReduce254 (w : Width) (s : State) : Result :=
  if w = .w256 then .next (acceptReduce .w256 fixedBudget s) else .next (raiseFault .illegalWsel s)

end Sys2Proof.Machine
end

