-- ==== Sys2Proof/Machine/Wau.lean ====
section
/-! DEFINITION. The seven commands of the widening arithmetic unit (spec/40_widening_arith.md). -/

namespace Sys2Proof.Machine

/-- `addcarry` (R121). -/
def execAddcarry (s : State) : Result :=
  .next (complete (putLink (sumWord s.xw s.yw s.cin) (carryOut s.xw s.yw s.cin) s))

/-- `subborrow` (R122). -/
def execSubborrow (s : State) : Result :=
  .next (complete (putLink (diffWord s.xw s.yw s.cin) (borrowOut s.xw s.yw s.cin) s))

/-- `umul` (R123). -/
def execUmul (s : State) : Result :=
  .next (complete (putProduct (fusedProduct s.xw s.yw 0 0) s))

/-- `umul_add` (R124). -/
def execUmulAdd (s : State) : Result :=
  .next (complete (putProduct (fusedProduct s.xw s.yw s.z1w 0) s))

/-- `umul_add2` (R125). -/
def execUmulAdd2 (s : State) : Result :=
  .next (complete (putProduct (fusedProduct s.xw s.yw s.z1w s.z2w) s))

/-- `sign_mask` (R126). -/
def execSignMask (s : State) : Result :=
  .next (complete (putRlo (signMask s.xw) s))

/-- `leading_zero_count` (R127). -/
def execLeadingZeroCount (s : State) : Result :=
  .next (complete (putRn (leadingZeros s.xw) s))

end Sys2Proof.Machine
end

