-- ==== Sys2Proof/Machine/Dispatch.lean ====
section
/-! DEFINITION. One arm per command, each a direct call of its meaning (spec/30_encoding.md R96). -/

namespace Sys2Proof.Machine

def exec (i : Instr) (s : State) : Host.Outcome State Fault Refusal :=
  match i with
  | .addcarry => Sys2Proof.Machine.execAddcarry s
  | .subborrow => Sys2Proof.Machine.execSubborrow s
  | .umul => Sys2Proof.Machine.execUmul s
  | .umulAdd => Sys2Proof.Machine.execUmulAdd s
  | .umulAdd2 => Sys2Proof.Machine.execUmulAdd2 s
  | .signMask => Sys2Proof.Machine.execSignMask s
  | .leadingZeroCount => Sys2Proof.Machine.execLeadingZeroCount s
  | .lessThan w => Sys2Proof.Machine.execLessThan w s
  | .swap w => Sys2Proof.Machine.execSwap w s
  | .bitLength w => Sys2Proof.Machine.execBitLength w s
  | .fitsBelow w => Sys2Proof.Machine.execFitsBelow w s
  | .isNegative w => Sys2Proof.Machine.execIsNegative w s
  | .addShifted w => Sys2Proof.Machine.execAddShifted w s
  | .subShifted w => Sys2Proof.Machine.execSubShifted w s
  | .reduce w => Sys2Proof.Machine.execReduce w s
  | .reduce254 w => Sys2Proof.Machine.execReduce254 w s

end Sys2Proof.Machine
end

