-- ==== Sys2Proof/Machine/Access.lean ====
section
/-! DEFINITION. What a host access and the other events do (spec/20_memory.md R81, spec/60_exceptions.md R222, R231,
spec/30_encoding.md R103). -/

namespace Sys2Proof.Machine

/-- HostWrite(CMD, v) by block state: decoded and executed when ST is IDLE or DONE; BUSY_CMD, tested before any
decoding, when BUSY; ignored in FAULT (R222, R223, R97, R98). -/
def writeCmd (v : Word) (s : State) : Result :=
  match s.st with
  | .idle | .done =>
    match decode v with
    | .cmd i => exec i s
    | .illegal c => .next (raiseFault c s)
  | .busy => .next (raiseFault .busyCmd s)
  | .fault => .next s

/-- HostWrite(reg, v) (R81, R37). -/
def hostWrite (r : Reg) (v : Word) (s : State) : Result :=
  if r = .cmd then writeCmd v s else .next (writeReg r v s)

/-- MOVF: COUT is read, and the write of that value to CIN is the host's next access (R103; notes/assumptions/9.md). -/
def movfEvent (s : State) : State :=
  let s1 := hostRead .cout s
  { s1 with inbox := .write .cin (readReg s .cout) :: s1.inbox }

/-- One poll of WAIT: STATUS is read; while ST is BUSY the engine takes a step and the host polls again (R103, R264;
notes/assumptions/12.md). -/
def waitEvent (s : State) : State :=
  let s1 := hostRead .status s
  if s.st = .busy then { s1 with inbox := .engine :: .wait :: s1.inbox } else s1

/-- What an event does to a block that has been reset; the event has already left the inbox. -/
def eventResult (e : Event) (s : State) : Result :=
  match e with
  | .read r => .next (hostRead r s)
  | .write r v => hostWrite r v s
  | .movf => .next (movfEvent s)
  | .wait => .next (waitEvent s)
  | .engine => .next (engineStep s)
  | .reset => .next (resetEvent s)

/-- The next event, or with none waiting an engine step; before the first reset only a reset is taken, for no other
rule applies (spec/70_reset_and_hazards.md R253; notes/assumptions/6.md, 7.md). -/
def nextEvent (s : State) : Result :=
  match s.inbox with
  | [] => if s.wasReset then .next (engineStep s) else .refused .beforeFirstReset
  | e :: rest =>
    if s.wasReset ∨ e = .reset then eventResult e { s with inbox := rest } else .refused .beforeFirstReset

end Sys2Proof.Machine
end

