-- ==== Sys2Proof/Machine/Step.lean ====
section
/-! DEFINITION. One step of the machine: the next event of the interleaving of host accesses, engine steps and resets
(spec/20_memory.md R77, spec/60_exceptions.md R231). -/

namespace Sys2Proof.Machine

/-- One step. -/
def step (s : State) : Host.Outcome State Fault Refusal := nextEvent s

/-- `s` with the host's next access the write of a command word to CMD, which is where the machine takes its next
command from (spec/10_state.md R37). -/
def State.withFetchWord (s : State) (nbits w : Nat) : State :=
  { s with inbox := .write .cmd (tableWord nbits w) :: s.inbox }

end Sys2Proof.Machine
end

