-- ==== Sys2Proof/Machine/ExactRun.lean ====
section
/-! DEFINITION. The integer vectors that go beside a run: they start as (n, 0) and (k, 1) and undergo the same swaps and
the same updates as the registers, without truncation (spec/42_lattice_reduction.md R192). No register holds them; statements
say what the registers hold in their terms. -/

namespace Sys2Proof.Machine

/-- The two exact vectors, u = (ux, uy) and v = (vx, vy) (R192). -/
structure ExactVectors where
  ux : Int
  uy : Int
  vx : Int
  vy : Int
deriving DecidableEq, Repr

/-- The vectors a run starts from: (n, 0) and (k, 1) (R173, R192). -/
def exactStart (k n : Int) : ExactVectors where
  ux := n
  uy := 0
  vx := k
  vy := 1

/-- Part 1 on the exact vectors: they change places when the registers do (R178). -/
def exactOrder (e : Engine) (g : ExactVectors) : ExactVectors :=
  if uval e.nu < uval e.nv then { ux := g.vx, uy := g.vy, vx := g.ux, vy := g.uy } else g

/-- Part 4 on the exact vectors: u ∓ v·2^s by the branch and the shift of the registers (R180 to R182). -/
def exactReduce (e : Engine) (g : ExactVectors) : ExactVectors :=
  let m : Int := 2 ^ (bitLength e.sp - bitLength e.nv)
  if e.first = true ∨ 0 ≤ sval e.sp then { g with ux := g.ux - g.vx * m, uy := g.uy - g.vy * m }
  else { g with ux := g.ux + g.vx * m, uy := g.uy + g.vy * m }

/-- Whether the next iteration, its part 1 done, comes to part 4: the budget is not met, and neither the phase-1 exit nor
the guard stops it (R184, R186, R188). -/
def comesToPartFour (e : Engine) : Bool :=
  match e.lstate with
  | .idle => false
  | .p1 => !budgetMet e && !fitsBelow e.nu (instL2 e.inst)
  | .p2 =>
    !budgetMet e &&
      match guardStep e with
      | .goesOn _ => true
      | .finishes _ _ => false

/-- The exact vectors after the engine step that starts with the registers `e` (R192). -/
def exactStep (e : Engine) (g : ExactVectors) : ExactVectors :=
  if e.lstate = .idle then g
  else
    let e1 := orderVectors e
    let g1 := exactOrder e g
    if comesToPartFour e1 then exactReduce e1 g1 else g1

/-- The exact vectors after `j` engine steps from the state `s`. -/
def exactRun : Nat → State → ExactVectors → ExactVectors
  | 0, _, g => g
  | j + 1, s, g => exactRun j (engineStep s) (exactStep s.eng g)

end Sys2Proof.Machine
end

