-- ==== Sys2Proof/Machine/LimbAlgorithms.lean ====
section
/-! DEFINITION. The limb-level algorithms the spec gives beside the values: chains of WAU links, the comparison, the
scan, the shifted add and subtract, the schoolbook product and the range-halving count (spec/40_widening_arith.md R128,
R129, spec/41_fixed_width_integer.md R144, R148, R157, spec/42_lattice_reduction.md R175). The machine computes by value;
statements say that these give the same. -/

namespace Sys2Proof.Machine

/-- A chain of `addcarry` links from limb 0 up: the sum limbs and the carry out of the last (R129). -/
def addChain : Limbs → Limbs → Bit → Limbs × Bit
  | x :: xs, y :: ys, c =>
    let r := addChain xs ys (carryOut x y c)
    (sumWord x y c :: r.1, r.2)
  | _, _, c => ([], c)

/-- A chain of `subborrow` links from limb 0 up: the difference limbs and the borrow out of the last (R129). -/
def subChain : Limbs → Limbs → Bit → Limbs × Bit
  | x :: xs, y :: ys, c =>
    let r := subChain xs ys (borrowOut x y c)
    (diffWord x y c :: r.1, r.2)
  | _, _, c => ([], c)

/-- `less_than` by the borrow chain, reading only the final borrow (R144). -/
def lessThanByChain (x y : Limbs) : Bool := (subChain x y 0).2 = 1

/-- The scan of `bit_length` over limbs given from the top down: the first limb that differs from the mask, at its index
counted from limb 0 (R148). -/
def scanDown (m : Word) : Limbs → Nat
  | [] => 0
  | w :: below =>
    if w ^^^ m ≠ 0 then 32 * below.length + (32 - leadingZeros (w ^^^ m)) else scanDown m below

/-- `bit_length` limb by limb (R148). -/
def bitLengthByScan (x : Limbs) : Nat := scanDown (signMask (x.getLastD 0)) x.reverse

/-- Limb `i` of `shl_W(b, s)` from at most two limbs of `b` (R157). -/
def shiftedLimb (b : Limbs) (s i : Nat) : Word :=
  let q := s / 32
  let r := s % 32
  if i < q then 0
  else
    let lo := b.getD (i - q) 0 <<< r
    let hi := if 0 < r ∧ 1 ≤ i - q then b.getD (i - q - 1) 0 >>> (32 - r) else 0
    lo ||| hi

/-- The limbs of `shl_W(b, s)`, one by one (R157). -/
def shiftedLimbs (b : Limbs) (s : Nat) : Limbs := (List.range b.length).map (shiftedLimb b s)

/-- `add_shifted` limb by limb; the final carry is dropped (R157). -/
def addShiftedByLimbs (x y : Limbs) (s : Nat) : Limbs :=
  if bitWidth x ≤ s then x else (addChain x (shiftedLimbs y s) 0).1

/-- `sub_shifted` limb by limb; the final borrow is dropped (R157). -/
def subShiftedByLimbs (x y : Limbs) (s : Nat) : Limbs :=
  if bitWidth x ≤ s then x else (subChain x (shiftedLimbs y s) 0).1

/-- One row of the schoolbook product: `umul_add2(a[i], b[j], r[i+j], cy)` for every j (R175). -/
def mulRow (x : Word) : Limbs → Limbs → Word → Limbs × Word
  | y :: ys, r :: rs, cy =>
    let p := fusedProduct x y r cy
    let t := mulRow x ys rs (highWord p)
    (lowWord p :: t.1, t.2)
  | _, _, cy => ([], cy)

/-- The rows of the schoolbook product; `r` is the result array from the row's own position on (R175). -/
def schoolbookRows : Limbs → Limbs → Limbs → Limbs
  | [], _, r => r
  | x :: xs, ys, r =>
    let row := mulRow x ys (r.take ys.length) 0
    match row.1 ++ row.2 :: r.drop (ys.length + 1) with
    | [] => []
    | d :: rest => d :: schoolbookRows xs ys rest

/-- The schoolbook product of two limb arrays (R175). -/
def schoolbook (x y : Limbs) : Limbs := schoolbookRows x y (List.replicate (x.length + y.length) 0)

/-- One range-halving step on (count, word): when the top `sh` bits are all 0 they are counted and dropped (R128). -/
def halvingStep (t : Word × Word) (sh : Nat) : Word × Word :=
  let top := t.2 >>> (32 - sh)
  let m := signMask ((top - 1) &&& ~~~top)
  (t.1 + (BitVec.ofNat 32 sh &&& m), ((t.2 <<< sh) &&& m) ||| (t.2 &&& ~~~m))

/-- `leading_zero_count` by range halving driven by sign masks (R128). -/
def leadingZerosByHalving (x : Word) : Word :=
  let t := [16, 8, 4, 2, 1].foldl halvingStep (0, x)
  t.1 + (1 &&& signMask ((t.2 - 1) &&& ~~~t.2))

end Sys2Proof.Machine
end

