-- ==== Sys2Proof/Machine/Script.lean ====
section
/-! DEFINITION. The command-script syntax and its pseudo-commands, as the events each line stands for
(spec/30_encoding.md R102, R103). -/

namespace Sys2Proof.Machine

/-- The limb-array registers a WRL line can name (R103). -/
inductive OperandArray where
  | a | b
deriving DecidableEq, Repr

/-- The limb-array registers an RDL line can name (R103). -/
inductive AnyArray where
  | a | b | c0 | c1
deriving DecidableEq, Repr

/-- One line of a script (R102, R103). -/
inductive ScriptLine where
  | wr (r : Reg) (v : Word)
  | rd (r : Reg)
  | cmd (i : Instr)
  | wrl (x : OperandArray) (value : Int) (l : Nat)
  | rdl (x : AnyArray) (l : Nat)
  | movf
  | wait
deriving DecidableEq, Repr

/-- The register of a limb of A or B, if there is such a limb. -/
def operandLimb (x : OperandArray) (i : Nat) : Option Reg :=
  if h : i < 32 then some (match x with | .a => .a ⟨i, h⟩ | .b => .b ⟨i, h⟩) else none

/-- The register of a limb of A, B, C0 or C1, if there is such a limb. -/
def anyLimb (x : AnyArray) (i : Nat) : Option Reg :=
  match x with
  | .a => operandLimb .a i
  | .b => operandLimb .b i
  | .c0 => if h : i < 8 then some (.c0 ⟨i, h⟩) else none
  | .c1 => if h : i < 8 then some (.c1 ⟨i, h⟩) else none

/-- The events a line stands for, in order; WRL writes limbs 0 to l−1 of the two's-complement value (R103). DESIGN CHOICE:
R103 gives a WRL or RDL line no meaning when L exceeds the limbs of its register; the accesses to limbs that do not exist
are dropped and the others stand (notes/assumptions/19.md). -/
def expandLine : ScriptLine → List Event
  | .wr r v => [.write r v]
  | .rd r => [.read r]
  | .cmd i => [.write .cmd (encode i)]
  | .wrl x value l =>
    ((limbsOf l value).zipIdx).filterMap fun p => (operandLimb x p.2).map fun r => .write r p.1
  | .rdl x l => (List.range l).filterMap fun i => (anyLimb x i).map .read
  | .movf => [.movf]
  | .wait => [.wait]

/-- The events a script stands for. -/
def expandScript (p : List ScriptLine) : List Event := p.flatMap expandLine

end Sys2Proof.Machine
end

