-- ==== Sys2Proof/Safety.lean ====
section
/-! DEFINITION. The terms claims are made in: coherent states, which registers a command reads and writes, and what lattice
vectors the engine's registers stand for. -/

namespace Sys2Proof.Machine

/-- The limbs of a Gram value at this point of a run: L3 before the shrink, L2 after (spec/10_state.md R44). -/
def gramLimbs (e : Engine) : Nat :=
  match e.lstate with
  | .p2 => instL2 e.inst
  | .idle | .p1 => instL3 e.inst

/-- The working registers of a running engine have the widths R43 and R44 give them, and the guard's state is within its
range: STALLC at most 3 while the run goes on (R188), untouched before phase 2 (R176). -/
structure Engine.Shaped (e : Engine) : Prop where
  u0 : e.u0.length = instL0 e.inst
  u1 : e.u1.length = instL0 e.inst
  v0 : e.v0.length = instL0 e.inst
  v1 : e.v1.length = instL0 e.inst
  nu : e.nu.length = gramLimbs e
  nv : e.nv.length = gramLimbs e
  sp : e.sp.length = gramLimbs e
  stallc : e.stallc ≤ stallThreshold
  phase1 : e.lstate = .p1 → e.prevv = false ∧ e.stallc = 0

/-- What holds of every state a block can be in: ST is BUSY exactly while a run goes on (R45), FCODE is 0 exactly outside
FAULT (R41), TERM says NONE outside DONE and tells of the last finished reduce (R38 to R40), STALLC and PREVBL are within their ranges (R47), and a running engine
is shaped. -/
structure State.Coherent (s : State) : Prop where
  busy : s.st = .busy ↔ s.eng.lstate ≠ .idle
  fault : s.st = .fault ↔ s.fcode ≠ none
  term : s.term ≠ .none → s.st = .done
  last : s.term ≠ .none → s.lastTerm = s.term
  stallc : s.eng.stallc ≤ 4
  prevbl : s.eng.prevbl ≤ 1024
  shaped : s.eng.lstate ≠ .idle → s.eng.Shaped

/-- Whether `r` is one of the limbs of A that a command of width `w` touches (R34). -/
def lowLimbOfA (w : Width) : Reg → Bool
  | .a j => j.val < widthLimbs w
  | .xw | .yw | .z1w | .z2w | .cin | .s | .b _ | .rlo | .rhi | .rn | .cout | .c0 _ | .c1 _ | .cmd | .status => false

/-- Whether `r` is one of the limbs of B that a command of width `w` touches (R34). -/
def lowLimbOfB (w : Width) : Reg → Bool
  | .b j => j.val < widthLimbs w
  | .xw | .yw | .z1w | .z2w | .cin | .s | .a _ | .rlo | .rhi | .rn | .cout | .c0 _ | .c1 _ | .cmd | .status => false

/-- The registers a command writes when it completes without a fault (R31, R35, R39). A reduce writes C0 and C1 only at
its finish, so acceptance writes STATUS alone (R36, R191). -/
def writesReg : Instr → Reg → Bool
  | .addcarry, r => r ∈ [.rlo, .cout, .status]
  | .subborrow, r => r ∈ [.rlo, .cout, .status]
  | .umul, r => r ∈ [.rlo, .rhi, .status]
  | .umulAdd, r => r ∈ [.rlo, .rhi, .status]
  | .umulAdd2, r => r ∈ [.rlo, .rhi, .status]
  | .signMask, r => r ∈ [.rlo, .status]
  | .leadingZeroCount, r => r ∈ [.rn, .status]
  | .lessThan _, r => r ∈ [.cout, .status]
  | .swap w, r => lowLimbOfA w r || lowLimbOfB w r || r = .status
  | .bitLength _, r => r ∈ [.rn, .status]
  | .fitsBelow _, r => r ∈ [.cout, .status]
  | .isNegative _, r => r ∈ [.cout, .status]
  | .addShifted w, r => lowLimbOfA w r || r = .status
  | .subShifted w, r => lowLimbOfA w r || r = .status
  | .reduce _, r => r = .status
  | .reduce254 _, r => r = .status

/-- The operand registers a command reads (R31, column "used by"; R34; R199 for the budget). -/
def readsReg : Instr → Reg → Bool
  | .addcarry, r => r ∈ [.xw, .yw, .cin]
  | .subborrow, r => r ∈ [.xw, .yw, .cin]
  | .umul, r => r ∈ [.xw, .yw]
  | .umulAdd, r => r ∈ [.xw, .yw, .z1w]
  | .umulAdd2, r => r ∈ [.xw, .yw, .z1w, .z2w]
  | .signMask, r => r = .xw
  | .leadingZeroCount, r => r = .xw
  | .lessThan w, r => lowLimbOfA w r || lowLimbOfB w r
  | .swap w, r => lowLimbOfA w r || lowLimbOfB w r
  | .bitLength w, r => lowLimbOfA w r
  | .fitsBelow w, r => lowLimbOfA w r || r = .s
  | .isNegative w, r => lowLimbOfA w r
  | .addShifted w, r => lowLimbOfA w r || lowLimbOfB w r || r = .s
  | .subShifted w, r => lowLimbOfA w r || lowLimbOfB w r || r = .s
  | .reduce w, r => lowLimbOfA w r || lowLimbOfB w r || r = .s
  | .reduce254 w, r => lowLimbOfA w r || lowLimbOfB w r

/-- The engine as the acceptance of a reduce leaves it, for operands of value k and n: coordinates truncated to N0 bits
(spec/42_lattice_reduction.md R173), exact Gram values of N3 bits (R174), control state (R176), the budget and the
instantiation latched (R172). -/
structure Engine.Accepted (i : Inst) (k n : Nat) (budget : Word) (e : Engine) : Prop where
  u0 : e.u0.length = instL0 i ∧ uval e.u0 = n % 2 ^ (32 * instL0 i)
  u1 : e.u1.length = instL0 i ∧ uval e.u1 = 0
  v0 : e.v0.length = instL0 i ∧ uval e.v0 = k % 2 ^ (32 * instL0 i)
  v1 : e.v1.length = instL0 i ∧ uval e.v1 = 1
  nu : e.nu.length = instL3 i ∧ uval e.nu = n * n
  nv : e.nv.length = instL3 i ∧ uval e.nv = k * k + 1
  sp : e.sp.length = instL3 i ∧ uval e.sp = n * k
  control : e.first = true ∧ e.stallc = 0 ∧ e.prevv = false ∧ e.lstate = .p1
  latched : e.maxbl = budget ∧ e.inst = i

/-- An iteration's outcome with the coordinate registers left out of view (R193). -/
def Iteration.withoutCoordinates : Iteration → Iteration
  | .goesOn e => .goesOn { e with u0 := [], u1 := [], v0 := [], v1 := [] }
  | .finishes r e => .finishes r { e with u0 := [], u1 := [], v0 := [], v1 := [] }

/-- The engine's registers stand for u = α·(n, 0) + β·(k, 1) and v = γ·(n, 0) + δ·(k, 1), a basis of the lattice spanned
by (n, 0) and (k, 1), each register modulo 2 to its width: the invariant of spec/42_lattice_reduction.md R192, with the
truncated coordinates of R193. -/
structure Engine.Represents (k n α β γ δ : Int) (e : Engine) : Prop where
  u0 : (uval e.u0 : Int) ≡ α * n + β * k [ZMOD 2 ^ bitWidth e.u0]
  u1 : (uval e.u1 : Int) ≡ β [ZMOD 2 ^ bitWidth e.u1]
  v0 : (uval e.v0 : Int) ≡ γ * n + δ * k [ZMOD 2 ^ bitWidth e.v0]
  v1 : (uval e.v1 : Int) ≡ δ [ZMOD 2 ^ bitWidth e.v1]
  nu : (uval e.nu : Int) ≡ (α * n + β * k) ^ 2 + β ^ 2 [ZMOD 2 ^ bitWidth e.nu]
  nv : (uval e.nv : Int) ≡ (γ * n + δ * k) ^ 2 + δ ^ 2 [ZMOD 2 ^ bitWidth e.nv]
  sp : (uval e.sp : Int) ≡ (α * n + β * k) * (γ * n + δ * k) + β * δ [ZMOD 2 ^ bitWidth e.sp]
  basis : α * δ - β * γ = 1 ∨ α * δ - β * γ = -1

end Sys2Proof.Machine
end

