-- ==== Sys2Proof/Certificates/Slice0/Obligations.lean ====
section
/-! DEFINITION. The statements about the machine, for the provers. -/

open Sys2Proof Sys2Proof.Machine

/-! ### Encoding -/

/-- R96, R97 and R94: a word is a command exactly when it is the word of a well-formed command, so decoding undoes encoding
and every command has one word. -/
def Obligations.DecodeIsInverseOfEncode : Prop :=
  ∀ (v : Word) (i : Instr), decode v = .cmd i ↔ i.wellFormed = true ∧ encode i = v

/-- R96: a word that is a command meets the match and mask of the command's row of the opcode map. -/
def Obligations.DecodedWordMatchesItsRow : Prop :=
  ∀ (v : Word) (i : Instr), decode v = .cmd i → v &&& (opcodeRow i).2 = (opcodeRow i).1

/-- R98: which words are ILLEGAL_CMD and which ILLEGAL_WSEL, by their fields; no word decodes to another fault; and an
illegal word written to CMD while ST is IDLE or DONE raises its fault. -/
def Obligations.IllegalWordsByCause : Prop :=
  ∀ v : Word,
    let func := v.toNat % 16
    let unit := v.toNat / 16 % 4
    let rsv0 := v.toNat / 64 % 4
    let wsel := v.toNat / 256 % 16
    let rsv1 := v.toNat / 4096
    (decode v = .illegal .illegalCmd ↔
      rsv1 ≠ 0 ∨ rsv0 ≠ 0 ∨ unit = 3 ∨ (unit = 0 ∧ (7 ≤ func ∨ wsel ≠ 0)) ∨ (unit = 1 ∧ 7 ≤ func) ∨
        (unit = 2 ∧ 2 ≤ func)) ∧
    (decode v = .illegal .illegalWsel ↔
      rsv1 = 0 ∧ rsv0 = 0 ∧
        ((unit = 1 ∧ func < 7 ∧ 11 ≤ wsel) ∨ (unit = 2 ∧ func = 0 ∧ (wsel < 2 ∨ 6 < wsel)) ∨
          (unit = 2 ∧ func = 1 ∧ wsel ≠ 2))) ∧
    ∀ c, decode v = .illegal c →
      (c = .illegalCmd ∨ c = .illegalWsel) ∧
      ∀ s : State, s.st = .idle ∨ s.st = .done →
        writeCmd v s = .next { s with st := .fault, fcode := some c, term := .none, eng.lstate := .idle }

/-- Words written out from the opcode map of R96 and the examples of 95_test_vectors.md section C decode as it says; and each
WSEL code from 0 to 10, in the word of `less_than`, selects the width and the limb count of R94. -/
def Obligations.SampleWordsDecode : Prop :=
  decode 0x00000000 = .cmd .addcarry ∧
  decode 0x00000006 = .cmd .leadingZeroCount ∧
  decode 0x00000012 = .cmd (.bitLength .w128) ∧
  decode 0x00000A10 = .cmd (.lessThan .w1024) ∧
  decode 0x00000215 = .cmd (.addShifted .w256) ∧
  decode 0x00000620 = .cmd (.reduce .w512) ∧
  decode 0x00000221 = .cmd (.reduce254 .w256) ∧
  ∀ row ∈ ([(0x010, .w128, 4), (0x110, .w192, 6), (0x210, .w256, 8), (0x310, .w320, 10), (0x410, .w384, 12),
      (0x510, .w448, 14), (0x610, .w512, 16), (0x710, .w640, 20), (0x810, .w768, 24), (0x910, .w896, 28),
      (0xA10, .w1024, 32)] : List (Word × Width × Nat)),
    decode row.1 = .cmd (.lessThan row.2.1) ∧ widthLimbs row.2.1 = row.2.2

/-! ### Reset, steps, the block's state -/

/-- The state right after reset: STATUS reads 0 and the engine is idle (R50), and the state is coherent. The values of the
registers R50 calls unspecified are the model's choice (assumption 2) and are not stated. -/
def Obligations.ResetStateIsIdleAndCoherent : Prop :=
  statusWord State.reset = 0 ∧ State.reset.eng.lstate = .idle ∧ State.reset.Coherent

/-- Every step keeps the state coherent: BUSY exactly while a run goes on (R45), FCODE 0 exactly outside FAULT (R41), TERM
NONE outside DONE (R40), the guard's counters in range (R47), the working registers of the widths R43 and R44 give.
TERM is the field that R40 and R176 write, and it tells of the last finished reduce; that a host reads the last finished reduce's
while BUSY is THE MODEL'S CHOICE (assumption 18). -/
def Obligations.StepKeepsStateCoherent : Prop :=
  ∀ s t : State, s.Coherent → step s = .next t → t.Coherent

/-- R251: the reset input clears the control state, whatever the state was, also during a run and in FAULT, and STATUS then
reads 0; the host's own list of accesses and what it has read are kept (assumption 1). The data registers are left open, as
R251 leaves them. -/
def Obligations.ResetEventRestoresControlState : Prop :=
  ∀ (s : State) (rest : List Event), s.inbox = .reset :: rest →
    ∃ t, step s = .next t ∧ t.st = .idle ∧ t.term = .none ∧ t.lastTerm = .none ∧ t.fcode = none ∧ t.eng.lstate = .idle ∧
      statusWord t = 0 ∧ t.inbox = rest ∧ t.readLog = s.readLog ∧ t.wasReset = true

/-- A block that has been reset always has a next state: no command, access or engine step stops it (R225, R120, R162, R200).
The engine has no step while LSTATE is idle, and the state is kept (R231, R232): an engine step then leaves it as it is. THE
MODEL'S CHOICE (assumption 7): with no event waiting and LSTATE idle, a step answers too and changes nothing, and an engine event
changes nothing but to leave the list. THE MODEL'S CHOICE (assumption 6): a block that was never reset, for which R253 gives no
rule, takes a reset only. -/
def Obligations.StepAlwaysAnswersAfterReset : Prop :=
  ∀ s : State,
    (s.wasReset = true → ∃ t, step s = .next t ∧ t.wasReset = true) ∧
    (s.eng.lstate = .idle → engineStep s = s) ∧
    (s.wasReset = true → s.eng.lstate = .idle → s.inbox = [] → step s = .next s) ∧
    (s.wasReset = true → s.eng.lstate = .idle →
      ∀ rest, s.inbox = .engine :: rest → step s = .next { s with inbox := rest }) ∧
    (s.wasReset = false → (∀ rest, s.inbox ≠ .reset :: rest) → step s = .refused .beforeFirstReset)

/-! ### The widening arithmetic unit -/

/-- R121. -/
def Obligations.AddcarryGivesSumAndCarry : Prop :=
  decode 0x00000000 = .cmd .addcarry ∧
  ∀ s : State, ∃ (lo : Word) (c : Bit),
    exec .addcarry s = .next { s with rlo := lo, cout := c, st := .done, term := .none } ∧
    lo.toNat = (s.xw.toNat + s.yw.toNat + s.cin.toNat) % 2 ^ 32 ∧
    c.toNat = (s.xw.toNat + s.yw.toNat + s.cin.toNat) / 2 ^ 32

/-- R122. -/
def Obligations.SubborrowGivesDifferenceAndBorrow : Prop :=
  decode 0x00000001 = .cmd .subborrow ∧
  ∀ s : State, ∃ (lo : Word) (c : Bit),
    exec .subborrow s = .next { s with rlo := lo, cout := c, st := .done, term := .none } ∧
    (lo.toNat : Int) = ((s.xw.toNat : Int) - s.yw.toNat - s.cin.toNat) % 2 ^ 32 ∧
    c.toNat = if (s.xw.toNat : Int) - s.yw.toNat - s.cin.toNat < 0 then 1 else 0

/-- R123. -/
def Obligations.UmulGivesExactProduct : Prop :=
  decode 0x00000002 = .cmd .umul ∧
  ∀ s : State, ∃ lo hi : Word,
    exec .umul s = .next { s with rlo := lo, rhi := hi, st := .done, term := .none } ∧
    lo.toNat + 2 ^ 32 * hi.toNat = s.xw.toNat * s.yw.toNat

/-- R124. -/
def Obligations.UmulAddGivesExactSum : Prop :=
  decode 0x00000003 = .cmd .umulAdd ∧
  ∀ s : State, ∃ lo hi : Word,
    exec .umulAdd s = .next { s with rlo := lo, rhi := hi, st := .done, term := .none } ∧
    lo.toNat + 2 ^ 32 * hi.toNat = s.xw.toNat * s.yw.toNat + s.z1w.toNat

/-- R125. -/
def Obligations.UmulAdd2GivesExactSum : Prop :=
  decode 0x00000004 = .cmd .umulAdd2 ∧
  ∀ s : State, ∃ lo hi : Word,
    exec .umulAdd2 s = .next { s with rlo := lo, rhi := hi, st := .done, term := .none } ∧
    lo.toNat + 2 ^ 32 * hi.toNat = s.xw.toNat * s.yw.toNat + s.z1w.toNat + s.z2w.toNat

/-- R126. -/
def Obligations.SignMaskSpreadsTopBit : Prop :=
  decode 0x00000005 = .cmd .signMask ∧
  ∀ s : State,
    exec .signMask s =
      .next { s with
        rlo := if s.xw.getLsbD 31 = true then 0xFFFFFFFF else 0x00000000
        st := .done
        term := .none }

/-- R127: the result is 32 for zero; else the highest set bit of XW stands at index 31 less the result. -/
def Obligations.LeadingZeroCountFindsHighestBit : Prop :=
  decode 0x00000006 = .cmd .leadingZeroCount ∧
  ∀ s : State, ∃ n : Word,
    exec .leadingZeroCount s = .next { s with rn := n, st := .done, term := .none } ∧
    (s.xw = 0 → n = 32) ∧
    (s.xw ≠ 0 → n.toNat ≤ 31 ∧ s.xw.getLsbD (31 - n.toNat) = true ∧
      ∀ j, 31 - n.toNat < j → s.xw.getLsbD j = false)

/-- R128: range halving driven by sign masks counts the leading zeros of every word. -/
def Obligations.RangeHalvingCountsLeadingZeros : Prop :=
  ∀ x : Word, (leadingZerosByHalving x).toNat = leadingZeros x

/-- R129: a chain of `addcarry` links adds, a chain of `subborrow` links subtracts, limb arrays of any one length, with the
carry and the borrow out of the last limb; the three multiplies deliver their value whole. -/
def Obligations.CarryAndBorrowChainsAreExact : Prop :=
  (∀ x y : Limbs, x.length = y.length →
    (addChain x y 0).1.length = x.length ∧
    uval (addChain x y 0).1 = (uval x + uval y) % 2 ^ (32 * x.length) ∧
    (addChain x y 0).2.toNat = (uval x + uval y) / 2 ^ (32 * x.length)) ∧
  (∀ x y : Limbs, x.length = y.length →
    (subChain x y 0).1.length = x.length ∧
    (uval (subChain x y 0).1 : Int) = ((uval x : Int) - uval y) % 2 ^ (32 * x.length) ∧
    ((subChain x y 0).2 = 1 ↔ uval x < uval y)) ∧
  (∀ x y z1 z2 : Word,
    (lowWord (fusedProduct x y z1 z2)).toNat + 2 ^ 32 * (highWord (fusedProduct x y z1 z2)).toNat =
      x.toNat * y.toNat + z1.toNat + z2.toNat)

/-! ### The limb-level algorithms -/

/-- R144: the final borrow of the chain is the comparison `less_than` makes. -/
def Obligations.BorrowChainDecidesLessThan : Prop :=
  ∀ x y : Limbs, x.length = y.length →
    lessThanByChain x y = lessThan x y ∧ (lessThanByChain x y = true ↔ uval x < uval y)

/-- R148: the scan from the top limb gives the bit length. -/
def Obligations.ScanFromTopGivesBitLength : Prop :=
  ∀ x : Limbs, bitLengthByScan x = bitLength x

/-- R157: the limb loop over shifted limbs is the shifted add, and the shifted subtract, at every shift. -/
def Obligations.LimbLoopIsShiftedAddAndSubtract : Prop :=
  ∀ (x y : Limbs) (s : Nat), x.length = y.length →
    addShiftedByLimbs x y s = addShifted x y s ∧ subShiftedByLimbs x y s = subShifted x y s

/-- R175: the schoolbook loop gives the product, whole. -/
def Obligations.SchoolbookLoopIsProduct : Prop :=
  ∀ x y : Limbs, x.length = y.length →
    (schoolbook x y).length = 2 * x.length ∧ uval (schoolbook x y) = uval x * uval y

/-! ### The fixed-width integer unit -/

/-- R143. -/
def Obligations.LessThanComparesUnsigned : Prop :=
  ∀ (w : Width) (s : State),
    decode (0x00000010 + ((wselOfWidth w).setWidth 32 <<< 8)) = .cmd (.lessThan w) ∧
    exec (.lessThan w) s =
      .next { s with
        cout := if uval (lowLimbs s.a (widthLimbs w)) < uval (lowLimbs s.b (widthLimbs w)) then 1 else 0
        st := .done
        term := .none }

/-- R145: the low limbs of A and B change places, the limbs above them and every other register stay. -/
def Obligations.SwapExchangesLowLimbs : Prop :=
  ∀ (w : Width) (s : State),
    decode (0x00000011 + ((wselOfWidth w).setWidth 32 <<< 8)) = .cmd (.swap w) ∧
    ∃ a b : Vector Word 32,
      exec (.swap w) s = .next { s with a := a, b := b, st := .done, term := .none } ∧
      ∀ i : Fin 32,
        a[i] = (if i.val < widthLimbs w then s.b[i] else s.a[i]) ∧
        b[i] = (if i.val < widthLimbs w then s.a[i] else s.b[i])

/-- R146: two swaps of one width restore both registers. -/
def Obligations.SwapTwiceRestores : Prop :=
  ∀ (w : Width) (s : State), ∃ t,
    exec (.swap w) s = .next t ∧
    exec (.swap w) t = .next { s with st := .done, term := .none }

/-- R147: the result is the least m with the magnitude below 2^m, the magnitude being v for v ≥ 0 and −v − 1 for v < 0; it is
at most W − 1. -/
def Obligations.BitLengthIsLeastBound : Prop :=
  ∀ (w : Width) (s : State),
    decode (0x00000012 + ((wselOfWidth w).setWidth 32 <<< 8)) = .cmd (.bitLength w) ∧
    ∃ n : Word,
      exec (.bitLength w) s = .next { s with rn := n, st := .done, term := .none } ∧
      let v := sval (lowLimbs s.a (widthLimbs w))
      let mg := if 0 ≤ v then v else -v - 1
      mg < 2 ^ n.toNat ∧ (∀ m : Nat, mg < 2 ^ m → n.toNat ≤ m) ∧ n.toNat ≤ 32 * widthLimbs w - 1

/-- R150 and R151: BAD_OPERAND for S = 0 and for S above the limb count; else COUT says whether the value is below
2^(32·S − 1), which is the test on the limbs. -/
def Obligations.FitsBelowTestsBoundOrFaults : Prop :=
  ∀ (w : Width) (s : State),
    let x := lowLimbs s.a (widthLimbs w)
    let b := s.sReg.toNat
    decode (0x00000013 + ((wselOfWidth w).setWidth 32 <<< 8)) = .cmd (.fitsBelow w) ∧
    (b = 0 ∨ widthLimbs w < b →
      exec (.fitsBelow w) s =
        .next { s with st := .fault, fcode := some .badOperand, term := .none, eng.lstate := .idle }) ∧
    (0 < b → b ≤ widthLimbs w →
      exec (.fitsBelow w) s =
        .next { s with cout := if uval x < 2 ^ (32 * b - 1) then 1 else 0, st := .done, term := .none } ∧
      (uval x < 2 ^ (32 * b - 1) ↔
        (∀ i, b ≤ i → i < widthLimbs w → x.getD i 0 = 0) ∧ (x.getD (b - 1) 0).getLsbD 31 = false))

/-- R153. -/
def Obligations.IsNegativeReadsTopLimbSign : Prop :=
  ∀ (w : Width) (s : State),
    decode (0x00000014 + ((wselOfWidth w).setWidth 32 <<< 8)) = .cmd (.isNegative w) ∧
    ∃ j : Fin 32, j.val + 1 = widthLimbs w ∧
      exec (.isNegative w) s =
        .next { s with cout := BitVec.ofBool (s.a[j].getLsbD 31), st := .done, term := .none }

/-- R156: A becomes (a + b·2^S) mod 2^W in its low limbs; the limbs above and every other register stay. -/
def Obligations.AddShiftedAddsModuloWidth : Prop :=
  ∀ (w : Width) (s : State),
    decode (0x00000015 + ((wselOfWidth w).setWidth 32 <<< 8)) = .cmd (.addShifted w) ∧
    ∃ a : Vector Word 32,
      exec (.addShifted w) s = .next { s with a := a, st := .done, term := .none } ∧
      uval (lowLimbs a (widthLimbs w)) =
        (uval (lowLimbs s.a (widthLimbs w)) + uval (lowLimbs s.b (widthLimbs w)) * 2 ^ s.sReg.toNat) %
          2 ^ (32 * widthLimbs w) ∧
      ∀ i : Fin 32, widthLimbs w ≤ i.val → a[i] = s.a[i]

/-- R159: A becomes (a − b·2^S) mod 2^W in its low limbs; the limbs above and every other register stay. -/
def Obligations.SubShiftedSubtractsModuloWidth : Prop :=
  ∀ (w : Width) (s : State),
    decode (0x00000016 + ((wselOfWidth w).setWidth 32 <<< 8)) = .cmd (.subShifted w) ∧
    ∃ a : Vector Word 32,
      exec (.subShifted w) s = .next { s with a := a, st := .done, term := .none } ∧
      (uval (lowLimbs a (widthLimbs w)) : Int) =
        ((uval (lowLimbs s.a (widthLimbs w)) : Int) - uval (lowLimbs s.b (widthLimbs w)) * 2 ^ s.sReg.toNat) %
          2 ^ (32 * widthLimbs w) ∧
      ∀ i : Fin 32, widthLimbs w ≤ i.val → a[i] = s.a[i]

/-- R161: `add_shifted` then `sub_shifted` with the same operand and shift restores A, for every value and shift, also when
the sum wraps. -/
def Obligations.AddThenSubtractRestores : Prop :=
  ∀ (w : Width) (s : State), ∃ t,
    exec (.addShifted w) s = .next t ∧
    exec (.subShifted w) t = .next { s with st := .done, term := .none }

/-- R163: truncation to a smaller width commutes with the shifted add and subtract. -/
def Obligations.TruncationCommutesWithShiftedArithmetic : Prop :=
  ∀ (x y : Limbs) (s l : Nat), x.length = y.length → l ≤ x.length →
    (addShifted x y s).take l = addShifted (x.take l) (y.take l) s ∧
    (subShifted x y s).take l = subShifted (x.take l) (y.take l) s

/-- R163: the bit length is 0 exactly for 0 and −1, and `fits_below` is the bit length bound on non-negative values. -/
def Obligations.BitLengthAndFitsBelowAgree : Prop :=
  ∀ x : Limbs,
    (bitLength x = 0 ↔ sval x = 0 ∨ sval x = -1) ∧
    ∀ s, 0 < s → s ≤ x.length → (fitsBelow x s = true ↔ 0 ≤ sval x ∧ bitLength x ≤ 32 * s - 1)

/-! ### The lattice reduction engine: acceptance -/

/-- R172 with R173, R174 and R176: a reduce whose k is below its n starts the engine as those rules say and changes no other
register; any other is K_GE_N. The limb counts are those of the table of R12: for the five words of `reduce`, the width, the
instantiation, L0, L1, L3 and the three values L2 may take. The TERM set to NONE
is the field, as R176 says; that a host reads the last finished reduce's, which stays, is THE MODEL'S CHOICE (assumption 18). -/
def Obligations.ReduceStartsOrFaults : Prop :=
  (∀ row ∈ ([(0x220, .w256, .i256, [4, 8, 16], [10, 12, 14]), (0x320, .w320, .i320, [6, 10, 20], [12, 14, 16]),
      (0x420, .w384, .i384, [6, 12, 24], [14, 16, 20]), (0x520, .w448, .i448, [8, 14, 28], [16, 20, 24]),
      (0x620, .w512, .i512, [8, 16, 32], [20, 24, 28])] : List (Word × Width × Inst × List Nat × List Nat)),
    let i := row.2.2.1
    decode row.1 = .cmd (.reduce row.2.1) ∧ instOfWidth row.2.1 = some i ∧
    [instL0 i, instL1 i, instL3 i] = row.2.2.2.1 ∧ [chosenL2 i 0, chosenL2 i 1, chosenL2 i 2] = row.2.2.2.2 ∧
    instL2 i ∈ row.2.2.2.2) ∧
  ∀ (w : Width) (i : Inst) (s : State), instOfWidth w = some i →
    let k := uval (lowLimbs s.a (instL1 i))
    let n := uval (lowLimbs s.b (instL1 i))
    (k < n → ∃ e : Engine, e.Accepted i k n s.sReg ∧
      exec (.reduce w) s = .next { s with st := .busy, term := .none, eng := e }) ∧
    (n ≤ k →
      exec (.reduce w) s = .next { s with st := .fault, fcode := some .kGeN, term := .none, eng.lstate := .idle })

/-- R199: `reduce254` is `reduce` for instantiation 256 with the budget 254 in place of S, which it does not read.
The TERM set to NONE is the field; that a host reads the last finished reduce's is THE MODEL'S CHOICE (assumption 18). -/
def Obligations.Reduce254StartsWithFixedBudget : Prop :=
  decode 0x00000221 = .cmd (.reduce254 .w256) ∧
  ∀ s : State,
    let k := uval (lowLimbs s.a 8)
    let n := uval (lowLimbs s.b 8)
    (k < n → ∃ e : Engine, e.Accepted .i256 k n 254 ∧
      exec (.reduce254 .w256) s = .next { s with st := .busy, term := .none, eng := e } ∧
      exec (.reduce .w256) { s with sReg := 254 } = .next { s with sReg := 254, st := .busy, term := .none, eng := e }) ∧
    (n ≤ k →
      exec (.reduce254 .w256) s =
        .next { s with st := .fault, fcode := some .kGeN, term := .none, eng.lstate := .idle })

/-- THE MODEL'S CHOICE (assumption 13): a reduce at a width R98 does not accept, which no word decodes to, raises
ILLEGAL_WSEL when executed all the same. -/
def Obligations.ReduceAtOtherWidthsFaults : Prop :=
  ∀ (i : Instr) (s : State), i.wellFormed = false →
    exec i s = .next { s with st := .fault, fcode := some .illegalWsel, term := .none, eng.lstate := .idle }

/-! ### The lattice reduction engine: iterations -/

/-- R178 and R184: a phase-1 engine step exchanges the vectors when nu is below nv; then it finishes with BUDGET when the bit
length of nv is at most the budget; else it shrinks the Gram values and leaves for phase 2 when nu is below 2^(N2−1); else it
reduces u by part 4. -/
def Obligations.PhaseOneStepFinishesShrinksOrReduces : Prop :=
  ∀ s : State, s.Coherent → s.eng.lstate = .p1 →
    let l2 := instL2 s.eng.inst
    let e :=
      if uval s.eng.nu < uval s.eng.nv then
        { s.eng with
          u0 := s.eng.v0, v0 := s.eng.u0, u1 := s.eng.v1, v1 := s.eng.u1, nu := s.eng.nv, nv := s.eng.nu }
      else s.eng
    uval e.nv ≤ uval e.nu ∧
    (bitLength e.nv ≤ s.eng.maxbl.toNat → engineStep s = finishRun .budget e s) ∧
    (s.eng.maxbl.toNat < bitLength e.nv → uval e.nu < 2 ^ (32 * l2 - 1) →
      engineStep s =
        { s with eng := { e with nu := e.nu.take l2, nv := e.nv.take l2, sp := e.sp.take l2, lstate := .p2 } }) ∧
    (s.eng.maxbl.toNat < bitLength e.nv → 2 ^ (32 * l2 - 1) ≤ uval e.nu →
      engineStep s = { s with eng := reduceVector e })

/-- R177, R181 and R182: part 4 takes v·2^s from u at the first iteration or when sp is not negative and adds it otherwise,
with s = max(0, bit_length(sp) − bit_length(nv)); nu is updated with the old sp; v, nv stay; FIRST is cleared. -/
def Obligations.PartFourUpdatesByTheBranchOfSp : Prop :=
  ∀ e : Engine, e.u0.length = e.v0.length → e.u1.length = e.v1.length → e.nu.length = e.nv.length →
    e.nu.length = e.sp.length →
    let sh := max 0 ((bitLength e.sp : Int) - bitLength e.nv)
    let g : Int := if e.first = true ∨ 0 ≤ sval e.sp then -1 else 1
    ∃ u0 u1 nu sp : Limbs,
      reduceVector e = { e with u0 := u0, u1 := u1, nu := nu, sp := sp, first := false } ∧
      u0.length = e.u0.length ∧ u1.length = e.u1.length ∧ nu.length = e.nu.length ∧ sp.length = e.sp.length ∧
      (uval u0 : Int) ≡ uval e.u0 + g * uval e.v0 * 2 ^ sh.toNat [ZMOD 2 ^ bitWidth u0] ∧
      (uval u1 : Int) ≡ uval e.u1 + g * uval e.v1 * 2 ^ sh.toNat [ZMOD 2 ^ bitWidth u1] ∧
      (uval nu : Int) ≡ uval e.nu + uval e.nv * 2 ^ (2 * sh.toNat) + g * uval e.sp * 2 ^ (sh.toNat + 1)
        [ZMOD 2 ^ bitWidth nu] ∧
      (uval sp : Int) ≡ uval e.sp + g * uval e.nv * 2 ^ sh.toNat [ZMOD 2 ^ bitWidth sp]

/-- R186 to R188 and R190: a phase-2 engine step, whole. It exchanges the vectors when nu is below nv; it finishes with BUDGET
when the bit length of nv is at most the budget; else the guard ends the run with STALL, and the v of this iteration, at the
first increase of bit_length(sp) and at the fourth equality in a row; else it counts an equality, or starts the count again at
a decrease and at the first iteration of the phase, and reduces u by part 4. From a count of at most 3, which every running
state has, the count stays at most 4. -/
def Obligations.GuardEndsRunAtIncreaseOrFourthEquality : Prop :=
  ∀ s : State, s.eng.lstate = .p2 →
    let e :=
      if uval s.eng.nu < uval s.eng.nv then
        { s.eng with
          u0 := s.eng.v0, v0 := s.eng.u0, u1 := s.eng.v1, v1 := s.eng.u1, nu := s.eng.nv, nv := s.eng.nu }
      else s.eng
    let bl := bitLength e.sp
    uval e.nv ≤ uval e.nu ∧
    (bitLength e.nv ≤ e.maxbl.toNat → engineStep s = finishRun .budget e s) ∧
    (e.maxbl.toNat < bitLength e.nv →
      (e.prevv = true → e.prevbl < bl ∨ (e.prevbl = bl ∧ 3 ≤ e.stallc) →
        engineStep s = finishRun .stall { e with stallc := e.stallc + 1 } s) ∧
      (e.prevv = true → e.prevbl = bl → e.stallc < 3 →
        engineStep s =
          { s with eng := reduceVector { e with stallc := e.stallc + 1, prevbl := bl, prevv := true } }) ∧
      (e.prevv = false ∨ bl < e.prevbl →
        engineStep s = { s with eng := reduceVector { e with stallc := 0, prevbl := bl, prevv := true } })) ∧
    (e.stallc ≤ 3 → (engineStep s).eng.stallc ≤ 4)

/-- R185 and R186: leaving phase 1 keeps the unsigned values of nu and nv, keeps sp modulo 2^N2, leaves FIRST alone, and the
first phase-2 iteration gives the same answers in parts 1 and 2: no swap, no finish. -/
def Obligations.ShrinkKeepsTheRunsAnswers : Prop :=
  ∀ (l2 : Nat) (e e' : Engine), e.lstate = .p1 → 0 < l2 → l2 ≤ e.nu.length → e.nv.length = e.nu.length →
    phase1 l2 e = .goesOn e' → e'.lstate = .p2 →
    uval e'.nu = uval (orderVectors e).nu ∧ uval e'.nv = uval (orderVectors e).nv ∧ e'.sp = e.sp.take l2 ∧
    e'.first = e.first ∧ orderVectors e' = e' ∧ budgetMet e' = false

/-- R192 and R193: every engine step keeps the engine's registers standing for a basis of the lattice spanned by (n, 0) and
(k, 1), coordinates and Gram values modulo their widths; and at the finish C0 and C1 hold the vector v. -/
def Obligations.EngineStepKeepsLatticeBasis : Prop :=
  ∀ (s : State) (k n α β γ δ : Int), s.Coherent → s.eng.lstate ≠ .idle → s.eng.Represents k n α β γ δ →
    let t := engineStep s
    ∃ α' β' γ' δ' : Int, t.eng.Represents k n α' β' γ' δ' ∧
      (t.st = .done →
        (uval (lowLimbs t.c0 (instL0 s.eng.inst)) : Int) ≡ γ' * n + δ' * k [ZMOD 2 ^ (32 * instL0 s.eng.inst)] ∧
        (uval (lowLimbs t.c1 (instL0 s.eng.inst)) : Int) ≡ δ' [ZMOD 2 ^ (32 * instL0 s.eng.inst)])

/-- R191 to R193: a reduce that has finished, after however many engine steps, has put into C0 and C1 the coordinates,
modulo 2^N0, of the vector v that the run's own swaps and updates, made without truncation, lead to from (n, 0) and (k, 1). The
coordinates are exact when, and only when, they fit N0 bits signed. That vector and the u beside it are lattice vectors,
x ≡ k·y (mod n), and a basis, their determinant being n or −n, so neither is (0, 0); and NV is the squared norm of v modulo
the Gram width. -/
def Obligations.FinishedReduceReturnsLatticeVector : Prop :=
  ∀ (w : Width) (i : Inst) (s t : State) (j : Nat), instOfWidth w = some i →
    exec (.reduce w) s = .next t → t.st = .busy → (engineRun j t).st = .done →
    let k : Int := uval (lowLimbs s.a (instL1 i))
    let n : Int := uval (lowLimbs s.b (instL1 i))
    let r := engineRun j t
    let g := exactRun j t (exactStart k n)
    let c0 := lowLimbs r.c0 (instL0 i)
    let c1 := lowLimbs r.c1 (instL0 i)
    let half : Int := 2 ^ (32 * instL0 i - 1)
    (uval c0 : Int) = g.vx % 2 ^ (32 * instL0 i) ∧ (uval c1 : Int) = g.vy % 2 ^ (32 * instL0 i) ∧
    (sval c0 = g.vx ↔ -half ≤ g.vx ∧ g.vx < half) ∧ (sval c1 = g.vy ↔ -half ≤ g.vy ∧ g.vy < half) ∧
    n ∣ g.vx - k * g.vy ∧ n ∣ g.ux - k * g.uy ∧
    (g.ux * g.vy - g.uy * g.vx = n ∨ g.ux * g.vy - g.uy * g.vx = -n) ∧ (g.vx ≠ 0 ∨ g.vy ≠ 0) ∧
    (uval r.eng.nv : Int) ≡ g.vx ^ 2 + g.vy ^ 2 [ZMOD 2 ^ bitWidth r.eng.nv]

/-- R193: the coordinate registers take no part in any decision or Gram value of an iteration. -/
def Obligations.CoordinatesTakeNoPartInDecisions : Prop :=
  ∀ (l2 : Nat) (e : Engine) (u0 u1 v0 v1 : Limbs),
    let f : Engine := { e with u0 := u0, u1 := u1, v0 := v0, v1 := v1 }
    (phase1 l2 f).withoutCoordinates = (phase1 l2 e).withoutCoordinates ∧
    (phase2 f).withoutCoordinates = (phase2 e).withoutCoordinates

/-- R179, R188 and R191: the engine step that ends a run puts v into C0 and C1 and its exit into TERM: BUDGET with the bit
length of nv at most the budget, or STALL, in phase 2 only, with it above. -/
def Obligations.TermTellsWhichExitEndedTheRun : Prop :=
  ∀ s : State, s.eng.lstate ≠ .idle → s.st ≠ .done → (engineStep s).st = .done →
    let t := engineStep s
    t = { s with
      c0 := storeLow s.c0 t.eng.v0
      c1 := storeLow s.c1 t.eng.v1
      term := t.term
      lastTerm := t.term
      st := .done
      eng := t.eng } ∧
    t.eng.lstate = .idle ∧
    ((t.term = .budget ∧ bitLength t.eng.nv ≤ s.eng.maxbl.toNat) ∨
      (t.term = .stall ∧ s.eng.lstate = .p2 ∧ s.eng.maxbl.toNat < bitLength t.eng.nv))

/-- R75 and R191: an engine step that does not finish the run changes the working registers and nothing else. -/
def Obligations.UnfinishedStepTouchesWorkingRegistersOnly : Prop :=
  ∀ s : State, (engineStep s).st = .busy → engineStep s = { s with eng := (engineStep s).eng }

/-- R201: with a budget of at least the bit length of k² + 1 the run finishes at its first engine step with (k mod 2^N0, 1),
TERM BUDGET, the limbs of C0 and C1 above N0 unchanged (R36). -/
def Obligations.LargeBudgetFinishesAtFirstStep : Prop :=
  ∀ (w : Width) (i : Inst) (s : State), instOfWidth w = some i →
    let k := uval (lowLimbs s.a (instL1 i))
    let n := uval (lowLimbs s.b (instL1 i))
    k < n → bitLength (natLimbs (instL3 i) (k ^ 2 + 1)) ≤ s.sReg.toNat →
    ∃ t, exec (.reduce w) s = .next t ∧ t.st = .busy ∧
      let u := engineStep t
      u.st = .done ∧ u.term = .budget ∧
      uval (lowLimbs u.c0 (instL0 i)) = k % 2 ^ (32 * instL0 i) ∧ uval (lowLimbs u.c1 (instL0 i)) = 1 ∧
      ∀ m : Fin 8, instL0 i ≤ m.val → u.c0[m] = s.c0[m] ∧ u.c1[m] = s.c1[m]

/-- R186, R188 and R190: from phase 2 every run finishes, within a fixed number of engine steps, whatever its values. -/
def Obligations.PhaseTwoAlwaysFinishes : Prop :=
  ∀ s : State, s.Coherent → s.eng.lstate = .p2 → ∃ j, j ≤ 4101 ∧ (engineRun j s).st = .done

/-- R194, worked case: k = 0, n = 2^255 − 19, budget 0 at instantiation 256 is accepted and never leaves phase 1, for every
admissible N2. -/
def Obligations.BudgetZeroRunNeverLeavesPhaseOne : Prop :=
  ∀ s : State, uval (lowLimbs s.a 8) = 0 → uval (lowLimbs s.b 8) = 2 ^ 255 - 19 → s.sReg = 0 →
    ∃ t, exec (.reduce .w256) s = .next t ∧
      ∀ j, (engineRun j t).st = .busy ∧ (engineRun j t).eng.lstate = .p1

/-- R197: after any number of engine steps, whether a reduce has finished, how, and with what result is the same for two
states that agree on k, n and max_bitlen, whatever else they hold. TERM here is the field,
NONE while BUSY (R176); that a host reads another value there, the last finished reduce's, is THE MODEL'S CHOICE (assumption 18). -/
def Obligations.ReduceOutcomeDependsOnItsOperandsAlone : Prop :=
  ∀ (w : Width) (i : Inst) (s1 s2 t1 t2 : State) (j : Nat), instOfWidth w = some i →
    lowLimbs s1.a (instL1 i) = lowLimbs s2.a (instL1 i) → lowLimbs s1.b (instL1 i) = lowLimbs s2.b (instL1 i) →
    s1.sReg = s2.sReg → exec (.reduce w) s1 = .next t1 → exec (.reduce w) s2 = .next t2 → t1.st = .busy →
    t2.st = .busy ∧
    let r1 := engineRun j t1
    let r2 := engineRun j t2
    r1.st = r2.st ∧ r1.term = r2.term ∧
    (r1.st = .done →
      lowLimbs r1.c0 (instL0 i) = lowLimbs r2.c0 (instL0 i) ∧ lowLimbs r1.c1 (instL0 i) = lowLimbs r2.c1 (instL0 i))

/-- R48 and R254: a host write to a register other than CMD, at any point of a run, leaves the run as it is: writing before
or after any number of engine steps gives the same state. -/
def Obligations.OperandWritesDoNotDisturbARun : Prop :=
  ∀ (j : Nat) (r : Reg) (v : Word) (s : State),
    engineRun j (writeReg r v s) = writeReg r v (engineRun j s)

/-! ### Host accesses, faults, steps -/

/-- The step of a block that has been reset. R222 and R37: when the next event is the write to CMD of a word that decodes to a
command, and ST is IDLE or DONE, the step is the command's own execution, on the state with that event taken from the list.
R198 and R231: when the next event is the engine's, the step is one engine step on the state with that event taken. THE MODEL'S
CHOICE (assumptions 1 and 7): with no event waiting the step is one engine step too, and without effect when no run goes on. -/
def Obligations.StepRunsTheDecodedCommand : Prop :=
  ∀ s : State, s.wasReset = true →
    (∀ (v : Word) (rest : List Event) (i : Instr), s.inbox = .write .cmd v :: rest → s.st = .idle ∨ s.st = .done →
      decode v = .cmd i → step s = exec i { s with inbox := rest }) ∧
    (∀ rest : List Event, s.inbox = .engine :: rest → step s = .next (engineStep { s with inbox := rest })) ∧
    (s.inbox = [] → step s = .next (engineStep s))

/-- R222: a write to CMD is BUSY_CMD while BUSY, whatever the word, is ignored in FAULT, and in IDLE and DONE is decoded: a
command is executed, any other word raises the fault of the decoder. -/
def Obligations.CommandWriteByBlockState : Prop :=
  ∀ (s : State) (v : Word) (rest : List Event), s.wasReset = true → s.inbox = .write .cmd v :: rest →
    (s.st = .busy →
      step s = .next { s with
        inbox := rest, st := .fault, fcode := some .busyCmd, term := .none, eng.lstate := .idle }) ∧
    (s.st = .fault → step s = .next { s with inbox := rest }) ∧
    (s.st = .idle ∨ s.st = .done →
      (∃ i, decode v = .cmd i ∧ step s = exec i { s with inbox := rest }) ∨
      (∃ c, decode v = .illegal c ∧
        step s = .next { s with
          inbox := rest, st := .fault, fcode := some c, term := .none, eng.lstate := .idle }))

/-- R224: a step that enters FAULT writes ST, FCODE, TERM and LSTATE and nothing else: the faulting command has no partial
effect. -/
def Obligations.FaultingStepHasNoPartialEffect : Prop :=
  ∀ s t : State, step s = .next t → s.st ≠ .fault → t.st = .fault →
    ∃ c rest, t = { s with
      inbox := rest, st := .fault, fcode := some c, term := .none, eng.lstate := .idle }

/-- R221: a fault is raised by a host write to CMD and by nothing else. -/
def Obligations.OnlyCommandWritesRaiseFaults : Prop :=
  ∀ s t : State, step s = .next t → s.st ≠ .fault → t.st = .fault → ∃ v rest, s.inbox = .write .cmd v :: rest

/-- R226: in FAULT every step but a reset leaves ST, TERM, FCODE, the result registers and the engine as they are. -/
def Obligations.FaultLastsUntilReset : Prop :=
  ∀ s t : State, s.Coherent → s.st = .fault → (∀ rest, s.inbox ≠ .reset :: rest) → step s = .next t →
    t.st = .fault ∧ t.fcode = s.fcode ∧ t.term = s.term ∧ t.lastTerm = s.lastTerm ∧ t.rlo = s.rlo ∧ t.rhi = s.rhi ∧ t.rn = s.rn ∧
    t.cout = s.cout ∧ t.c0 = s.c0 ∧ t.c1 = s.c1 ∧ t.eng = s.eng

/-- R81 and R74: HostRead returns the register's own value, a one-bit register zero-extended, to the host and changes no
register; what a read of CMD returns is left open (R37). THE MODEL'S CHOICE (assumptions 4 and 9): the value goes to the list of
values read, and the count of free values, which only a read of CMD advances, is the model's own. -/
def Obligations.HostReadChangesNoRegister : Prop :=
  ∀ (s : State) (r : Reg) (rest : List Event), s.wasReset = true → s.inbox = .read r :: rest →
    ∃ (v : Word) (c : Nat), step s = .next { s with inbox := rest, readLog := v :: s.readLog, freeCount := c } ∧
      (r ≠ .cmd → c = s.freeCount) ∧
      match r with
      | .xw => v = s.xw
      | .yw => v = s.yw
      | .z1w => v = s.z1w
      | .z2w => v = s.z2w
      | .cin => v.toNat = s.cin.toNat
      | .s => v = s.sReg
      | .a i => v = s.a[i]
      | .b i => v = s.b[i]
      | .rlo => v = s.rlo
      | .rhi => v = s.rhi
      | .rn => v = s.rn
      | .cout => v.toNat = s.cout.toNat
      | .c0 i => v = s.c0[i]
      | .c1 i => v = s.c1[i]
      | .status => v = readReg s .status
      | .cmd => True

/-- R52: a host write to an operand register stores the value's low bits there and changes no other register; a write to a
result register or to STATUS is ignored. -/
def Obligations.HostWriteLandsInOneRegister : Prop :=
  ∀ (s : State) (r : Reg) (v : Word) (rest : List Event), s.wasReset = true → s.inbox = .write r v :: rest → r ≠ .cmd →
    ∃ t, step s = .next t ∧ t.inbox = rest ∧ t.eng = s.eng ∧ t.st = s.st ∧
      (∀ q, q ≠ r → readReg t q = readReg s q) ∧
      readReg t r =
        match r with
        | .cin => v &&& 1
        | .xw | .yw | .z1w | .z2w | .s | .a _ | .b _ => v
        | .rlo | .rhi | .rn | .cout | .c0 _ | .c1 _ | .status | .cmd => readReg s r

/-- R103, the two pseudo-commands that depend on a value read. MOVF, as the two host accesses it expands to, puts COUT into CIN
and changes no other register. WAIT reads STATUS, whose word goes to the host, and changes no register; while BUSY it polls again.
THE MODEL'S CHOICE (assumption 9): the write of CIN is the very next step, no engine step coming between the two accesses, also
while BUSY; R77 fixes no such order. THE MODEL'S CHOICE (assumption 12): exactly one engine step stands between two polls. -/
def Obligations.MovfCarriesCoutIntoCin : Prop :=
  ∀ (s : State) (rest : List Event), s.wasReset = true →
    (s.inbox = .movf :: rest →
      ∃ t, step s = .next t ∧
        step t = .next { s with
          inbox := rest, readLog := s.cout.setWidth 32 :: s.readLog, cin := s.cout, freeCount := s.freeCount }) ∧
    (s.inbox = .wait :: rest →
      step s = .next { s with
        inbox := if s.st = .busy then .engine :: .wait :: rest else rest
        readLog := readReg s .status :: s.readLog })

/-- R38 and R221: the STATUS word is ST + 4·TERM + 16·FCODE with the codes of R39, R38 and R221; bits 31:8 are 0, TERM 3 and
FCODE 6 to 15 never appear. R255 and spec/93 U19: while BUSY its TERM is that of the last finished reduce. That this stale value,
and not the NONE that R40 and R176 write to the field, is what a host reads while BUSY is THE MODEL'S CHOICE (assumption 18). -/
def Obligations.StatusWordHasTheLayoutOfItsFields : Prop :=
  ∀ s : State,
    let st := match s.st with | .idle => 0 | .busy => 1 | .done => 2 | .fault => 3
    let term := match if s.st = .busy then s.lastTerm else s.term with | .none => 0 | .budget => 1 | .stall => 2
    let fcode := match s.fcode with
      | none => 0
      | some .illegalCmd => 1
      | some .illegalWsel => 2
      | some .badOperand => 3
      | some .kGeN => 4
      | some .busyCmd => 5
    (readReg s .status).toNat = st + 4 * term + 16 * fcode

/-- R31, R32 and R35: a command that does not fault changes no register R31 does not list for it, and a WAU or FWI command
does not touch the engine. The TERM of the last finished reduce stays as it is. -/
def Obligations.CommandsWriteOnlyTheirOwnRegisters : Prop :=
  ∀ (i : Instr) (s t : State), exec i s = .next t →
    (∀ r, writesReg i r = false → readReg t r = readReg s r) ∧
    (t.st = .done → t.eng = s.eng) ∧ t.lastTerm = s.lastTerm ∧
    t.inbox = s.inbox ∧ t.readLog = s.readLog ∧ t.freeCount = s.freeCount

/-- R30: what a command writes, and whether it faults, depend only on the operand registers R31 lists for it, never on what an
earlier command left elsewhere. TERM here is the field, NONE after the acceptance of a reduce (R176); that a host reads another
value there, the last finished reduce's, is THE MODEL'S CHOICE (assumption 18). -/
def Obligations.ResultsDependOnOperandsAlone : Prop :=
  ∀ (i : Instr) (s1 s2 t1 t2 : State), (∀ r, readsReg i r = true → readReg s1 r = readReg s2 r) →
    exec i s1 = .next t1 → exec i s2 = .next t2 →
    t1.st = t2.st ∧ t1.term = t2.term ∧
    (t1.st ≠ .fault → ∀ r, writesReg i r = true → r ≠ .status → readReg t1 r = readReg t2 r)
end

