-- ==== Sys2Proof/Laws/Limbs.lean ====
section
/-! SUPPORT. What the values and the low limbs of a limb array are: each lemma says once what an operation of
Machine/Operands.lean can do. -/

namespace Sys2Proof.Machine

@[simp] theorem uval_nil : uval [] = 0 := rfl
@[simp] theorem uval_cons (w : Word) (x : Limbs) : uval (w :: x) = w.toNat + 2 ^ 32 * uval x := rfl

@[simp] theorem bitWidth_nil : bitWidth [] = 0 := rfl
@[simp] theorem bitWidth_cons (w : Word) (x : Limbs) : bitWidth (w :: x) = 32 + bitWidth x := by
  simp [bitWidth]; omega

theorem two_pow_width_succ (l : Nat) : 2 ^ (32 * (l + 1)) = 2 ^ 32 * 2 ^ (32 * l) := by
  rw [← pow_add]; congr 1; omega

/-- A limb array is below 2 to its width. -/
theorem uval_lt (x : Limbs) : uval x < 2 ^ (32 * x.length) := by
  induction x with
  | nil => simp
  | cons w x ih =>
    have hw := w.isLt
    rw [List.length_cons, two_pow_width_succ, uval_cons]
    nlinarith

theorem uval_append (x y : Limbs) : uval (x ++ y) = uval x + 2 ^ (32 * x.length) * uval y := by
  induction x with
  | nil => simp
  | cons w x ih =>
    rw [List.cons_append, uval_cons, ih, List.length_cons, two_pow_width_succ, uval_cons]; ring

@[simp] theorem uval_replicate_zero (l : Nat) : uval (List.replicate l 0#32) = 0 := by
  induction l with
  | zero => rfl
  | succ l ih => simp [List.replicate_succ, ih]

/-- Two arrays of one length with one value are one array. -/
theorem uval_inj {x y : Limbs} (hl : x.length = y.length) (h : uval x = uval y) : x = y := by
  induction x generalizing y with
  | nil => simpa using hl.symm
  | cons w x ih =>
    cases y with
    | nil => simp at hl
    | cons v y =>
      have hw := w.isLt
      have hv := v.isLt
      simp only [uval_cons] at h
      have h1 : w.toNat = v.toNat := by omega
      have h2 : uval x = uval y := by omega
      rw [BitVec.eq_of_toNat_eq h1, ih (by simpa using hl) h2]

@[simp] theorem length_natLimbs (l n : Nat) : (natLimbs l n).length = l := by
  induction l generalizing n with
  | zero => rfl
  | succ l ih => simp [natLimbs, ih]

/-- `natLimbs` keeps the value modulo 2 to the width. -/
@[simp] theorem uval_natLimbs (l n : Nat) : uval (natLimbs l n) = n % 2 ^ (32 * l) := by
  induction l generalizing n with
  | zero => simp [natLimbs, Nat.mod_one]
  | succ l ih =>
    rw [natLimbs, uval_cons, ih, two_pow_width_succ, Nat.mod_mul, BitVec.toNat_ofNat]

@[simp] theorem length_limbsOf (l : Nat) (v : Int) : (limbsOf l v).length = l := by
  induction l generalizing v with
  | zero => rfl
  | succ l ih => simp [limbsOf, ih]

/-- `limbs_L(v)` has the value `v mod 2^W` (R15). -/
theorem uval_limbsOf (l : Nat) (v : Int) : (uval (limbsOf l v) : Int) = v % 2 ^ (32 * l) := by
  induction l generalizing v with
  | zero => simp [limbsOf]
  | succ l ih =>
    rw [limbsOf, uval_cons, Nat.cast_add, Nat.cast_mul, ih, BitVec.toNat_ofInt]
    have h : (2 : Int) ^ (32 * (l + 1)) = 2 ^ 32 * 2 ^ (32 * l) := by
      rw [← pow_add]; congr 1; omega
    have hd : v / (2 ^ 32 * 2 ^ (32 * l)) = v / 2 ^ 32 / 2 ^ (32 * l) := (Int.ediv_ediv_of_nonneg (by norm_num)).symm
    rw [h, Int.emod_def v (2 ^ 32 * _), hd, Int.emod_def (v / 2 ^ 32)]
    push_cast
    rw [Int.toNat_of_nonneg (Int.emod_nonneg _ (by norm_num)), Int.emod_def v]
    ring

/-- The low limbs of an array are its value modulo 2 to their width. -/
theorem uval_take (x : Limbs) (l : Nat) : uval (x.take l) = uval x % 2 ^ (32 * l) := by
  induction x generalizing l with
  | nil => simp
  | cons w x ih =>
    cases l with
    | zero => simp [Nat.mod_one]
    | succ l =>
      have hw := w.isLt
      rw [List.take_succ_cons, uval_cons, ih, two_pow_width_succ, Nat.mod_mul, uval_cons]
      congr 1
      · omega
      · congr 2; omega

@[simp] theorem length_lowLimbs {n : Nat} (r : Vector Word n) (l : Nat) : (lowLimbs r l).length = min l n := by
  simp [lowLimbs]

theorem overwrite_getElem? (x r : Limbs) (i : Nat) :
    (overwrite x r)[i]? = if i < r.length then some (x.getD i (r.getD i 0)) else none := by
  induction x generalizing r i with
  | nil =>
    by_cases h : i < r.length <;> simp [overwrite, h]
  | cons w x ih =>
    cases r with
    | nil => simp [overwrite]
    | cons v r =>
      cases i with
      | zero => simp [overwrite]
      | succ i => simp [overwrite, ih]

/-- Each limb after `R[0..l-1] <- x`: the new one where `x` has one, the old one elsewhere. -/
@[simp] theorem getElem_storeLow {n : Nat} (r : Vector Word n) (x : Limbs) (i : Nat) (h : i < n) :
    (storeLow r x)[i] = x.getD i r[i] := by
  have h1 := overwrite_getElem? x r.toList i
  have h2 : (overwrite x r.toList)[i]? = some (storeLow r x)[i] := by
    rw [List.getElem?_eq_getElem (by simp [overwrite_length, h])]
    simp [storeLow]
  rw [h2] at h1
  simpa [h] using h1

/-- What was stored is what the low limbs then read. -/
theorem lowLimbs_storeLow {n : Nat} (r : Vector Word n) (x : Limbs) (h : x.length ≤ n) :
    lowLimbs (storeLow r x) x.length = x := by
  apply List.ext_getElem
  · simp [h]
  · intro i h1 h2
    simp [lowLimbs, h2]

/-- Storing what the low limbs hold changes nothing. -/
theorem storeLow_lowLimbs {n : Nat} (r : Vector Word n) (l : Nat) : storeLow r (lowLimbs r l) = r := by
  ext i h
  rw [getElem_storeLow]
  by_cases hi : i < l
  · simp [lowLimbs, List.getD_eq_getElem?_getD, hi, h]
  · simp [lowLimbs, List.getD_eq_getElem?_getD, hi]

/-- The later of two stores of one length is the one that counts. -/
theorem storeLow_storeLow {n : Nat} (r : Vector Word n) (x y : Limbs) (h : y.length = x.length) :
    storeLow (storeLow r x) y = storeLow r y := by
  ext i hi
  simp only [getElem_storeLow, List.getD_eq_getElem?_getD]
  by_cases hy : i < y.length
  · simp [hy]
  · have hx : ¬ i < x.length := by omega
    simp [hy, hx]

end Sys2Proof.Machine
end

