-- ==== Sys2Proof/Laws/Arith.lean ====
section
/-! SUPPORT. What the shared arithmetic computes, one lemma per operation of Machine/Arith.lean and Machine/Flags.lean. -/

namespace Sys2Proof.Machine

@[simp] theorem length_shiftLeft (x : Limbs) (s : Nat) : (shiftLeft x s).length = x.length := by
  unfold shiftLeft; split <;> simp

@[simp] theorem length_addShifted (x y : Limbs) (s : Nat) : (addShifted x y s).length = x.length := by
  simp [addShifted]

@[simp] theorem length_subShifted (x y : Limbs) (s : Nat) : (subShifted x y s).length = x.length := by
  simp [subShifted]

/-- `shl_W(b, s)` is `b · 2^s` modulo 2^W, also at and past the width (R142). -/
theorem uval_shiftLeft (x : Limbs) (s : Nat) : uval (shiftLeft x s) = uval x * 2 ^ s % 2 ^ (32 * x.length) := by
  unfold shiftLeft
  split
  · next h =>
    have hd : 2 ^ (32 * x.length) ∣ uval x * 2 ^ s := Dvd.dvd.mul_left (pow_dvd_pow 2 h) _
    simp [Nat.mod_eq_zero_of_dvd hd]
  · simp

/-- `add_shifted` is addition of `b · 2^s` in the integers modulo 2^W (R156, R163). -/
theorem addShifted_modEq (x y : Limbs) (s : Nat) (h : x.length = y.length) :
    (uval (addShifted x y s) : Int) ≡ uval x + uval y * 2 ^ s [ZMOD 2 ^ (32 * x.length)] := by
  rw [Int.ModEq, addShifted, uval_limbsOf, uval_shiftLeft, ← h]
  push_cast
  simp

/-- `sub_shifted` is subtraction of `b · 2^s` in the integers modulo 2^W (R159, R163). -/
theorem subShifted_modEq (x y : Limbs) (s : Nat) (h : x.length = y.length) :
    (uval (subShifted x y s) : Int) ≡ uval x - uval y * 2 ^ s [ZMOD 2 ^ (32 * x.length)] := by
  rw [Int.ModEq, subShifted, uval_limbsOf, uval_shiftLeft, ← h]
  push_cast
  simp

/-- The top bit of the top limb is set exactly when the value is at least half the range. -/
theorem isNegative_iff (x : Limbs) (h : x ≠ []) : isNegative x = true ↔ 2 ^ (32 * x.length) ≤ 2 * uval x := by
  obtain ⟨y, w, rfl⟩ : ∃ y w, x = y ++ [w] := ⟨_, _, (List.dropLast_append_getLast h).symm⟩
  have hy := uval_lt y
  have hp : 0 < 2 ^ (32 * y.length) := by positivity
  rw [uval_append, List.length_append, List.length_singleton, two_pow_width_succ]
  simp only [isNegative, List.getLastD_concat, BitVec.msb_eq_decide, decide_eq_true_eq, uval_cons, uval_nil, mul_zero,
    add_zero]
  generalize uval y = u at *
  generalize 2 ^ (32 * y.length) = q at *
  constructor
  · intro hw
    have h31 : q * 2 ^ 31 ≤ q * w.toNat := Nat.mul_le_mul_left q (by simpa using hw)
    omega
  · intro hw
    by_contra hc
    have : w.toNat + 1 ≤ 2 ^ 31 := by simpa using hc
    nlinarith

@[simp] theorem isNegative_nil : isNegative [] = false := rfl

/-- `is_negative` is the sign of `sval` (R153, R15). -/
theorem isNegative_iff_sval (x : Limbs) : isNegative x = true ↔ sval x < 0 := by
  have hlt := uval_lt x
  have hlt' : (uval x : Int) < 2 ^ bitWidth x := by rw [bitWidth]; exact_mod_cast hlt
  unfold sval
  split
  · next h => simp [h]; omega
  · next h => simp [h]

/-- The complement of an array is 2^W − 1 less its value. -/
theorem uval_map_not (x : Limbs) : uval (x.map (~~~·)) + uval x + 1 = 2 ^ (32 * x.length) := by
  induction x with
  | nil => simp
  | cons w x ih =>
    have hw := w.isLt
    rw [List.map_cons, uval_cons, uval_cons, List.length_cons, two_pow_width_succ, ← ih, BitVec.toNat_not]
    omega

/-- The magnitude `bit_length` measures is `v` when v ≥ 0 and −v − 1 when v < 0, v being `sval` (R147). -/
theorem uval_magnitudeLimbs (x : Limbs) :
    (uval (magnitudeLimbs x) : Int) = if 0 ≤ sval x then sval x else -sval x - 1 := by
  have hn := isNegative_iff_sval x
  have hm : (uval (x.map (~~~·)) : Int) + uval x + 1 = 2 ^ bitWidth x := by
    rw [bitWidth]; exact_mod_cast uval_map_not x
  cases hx : isNegative x
  · have h0 : 0 ≤ sval x := by
      by_contra hc
      rw [hn.mpr (by omega)] at hx
      cases hx
    rw [if_pos h0]
    simp [magnitudeLimbs, sval, hx]
  · have h0 : ¬ 0 ≤ sval x := by have := hn.mp hx; omega
    rw [if_neg h0]
    simp only [magnitudeLimbs, sval, hx, if_true]
    omega

/-- `bit_length(a)` is the least m with the magnitude below 2^m (R147). -/
theorem bitLength_le_iff (x : Limbs) (m : Nat) : bitLength x ≤ m ↔ uval (magnitudeLimbs x) < 2 ^ m := by
  unfold bitLength
  simp only
  split
  · next h => simp [h]
  · next h => rw [← Nat.log2_lt h]; omega

/-- The magnitude is below 2 to the bit length. -/
theorem magnitude_lt_two_pow_bitLength (x : Limbs) : uval (magnitudeLimbs x) < 2 ^ bitLength x :=
  (bitLength_le_iff x _).mp le_rfl

/-- A bit length is at most one less than the width (R147, R163). -/
theorem bitLength_le (x : Limbs) : bitLength x ≤ bitWidth x - 1 := by
  rcases eq_or_ne x [] with rfl | hx
  · decide
  rw [bitLength_le_iff]
  have hl : 0 < x.length := List.length_pos_iff.mpr hx
  have h2 : 2 ^ (32 * x.length) = 2 * 2 ^ (bitWidth x - 1) := by
    rw [← pow_succ', bitWidth]; congr 1; omega
  have hn := isNegative_iff x hx
  have hc := uval_map_not x
  unfold magnitudeLimbs
  split
  · next h => have := hn.mp h; omega
  · next h =>
    have : ¬ 2 ^ (32 * x.length) ≤ 2 * uval x := fun hh => h (hn.mpr hh)
    omega

/-- `fits_below(a, s)` for 0 < s ≤ L says the value is below 2^(32·s − 1) (R150). -/
theorem fitsBelow_iff (x : Limbs) (s : Nat) (h0 : 0 < s) (hs : s ≤ x.length) :
    fitsBelow x s = true ↔ uval x < 2 ^ (32 * s - 1) := by
  have hsplit : uval x = uval (x.take s) + 2 ^ (32 * s) * uval (x.drop s) := by
    conv_lhs => rw [← List.take_append_drop s x, uval_append, List.length_take, min_eq_left hs]
  have hzero : ((x.drop s).all (· == 0)) = true ↔ uval (x.drop s) = 0 := by
    generalize x.drop s = y
    induction y with
    | nil => simp
    | cons w y ih =>
      rw [List.all_cons, Bool.and_eq_true, ih, uval_cons, beq_iff_eq, BitVec.toNat_eq]
      simp
  have hne : x.take s ≠ [] := by
    intro h
    have := congrArg List.length h
    simp at this
    rcases this with h1 | h1
    · omega
    · subst h1; simp at hs; omega
  have hlen : (x.take s).length = s := by simp [hs]
  have htop : (x.getD (s - 1) 0).msb = isNegative (x.take s) := by
    unfold isNegative
    congr 1
    rw [List.getLastD_eq_getLast?, List.getLast?_eq_getElem?, hlen, List.getD_eq_getElem?_getD, List.getElem?_take]
    simp [h0]
  have hn := isNegative_iff _ hne
  rw [hlen] at hn
  have hlt := uval_lt (x.take s)
  rw [hlen] at hlt
  have h2 : 2 ^ (32 * s) = 2 * 2 ^ (32 * s - 1) := by rw [← pow_succ']; congr 1; omega
  unfold fitsBelow
  rw [Bool.and_eq_true, hzero, htop, Bool.not_eq_true', ← Bool.not_eq_true, hn, hsplit, h2]
  constructor
  · rintro ⟨h, h'⟩
    rw [h]; omega
  · intro h
    rcases Nat.eq_zero_or_pos (uval (x.drop s)) with hz | hz
    · rw [hz] at h; exact ⟨hz, by omega⟩
    · exfalso
      have : 2 * 2 ^ (32 * s - 1) * 1 ≤ 2 * 2 ^ (32 * s - 1) * uval (x.drop s) := Nat.mul_le_mul_left _ hz
      have : 0 < 2 ^ (32 * s - 1) := by positivity
      omega

/-- The operand of a command is the register's value modulo 2^W (R34). -/
theorem uval_lowLimbs {n : Nat} (r : Vector Word n) (l : Nat) : uval (lowLimbs r l) = uval r.toList % 2 ^ (32 * l) :=
  uval_take _ _

end Sys2Proof.Machine
end

