-- ==== Sys2Proof/Laws/State.lean ====
section
/-! SUPPORT. For each named update of the state, what it leaves in each field. -/

namespace Sys2Proof.Machine

/-! `complete` -/

@[simp] theorem complete_xw (s : State) : (complete s).xw = s.xw := rfl
@[simp] theorem complete_yw (s : State) : (complete s).yw = s.yw := rfl
@[simp] theorem complete_z1w (s : State) : (complete s).z1w = s.z1w := rfl
@[simp] theorem complete_z2w (s : State) : (complete s).z2w = s.z2w := rfl
@[simp] theorem complete_cin (s : State) : (complete s).cin = s.cin := rfl
@[simp] theorem complete_sReg (s : State) : (complete s).sReg = s.sReg := rfl
@[simp] theorem complete_a (s : State) : (complete s).a = s.a := rfl
@[simp] theorem complete_b (s : State) : (complete s).b = s.b := rfl
@[simp] theorem complete_rlo (s : State) : (complete s).rlo = s.rlo := rfl
@[simp] theorem complete_rhi (s : State) : (complete s).rhi = s.rhi := rfl
@[simp] theorem complete_rn (s : State) : (complete s).rn = s.rn := rfl
@[simp] theorem complete_cout (s : State) : (complete s).cout = s.cout := rfl
@[simp] theorem complete_c0 (s : State) : (complete s).c0 = s.c0 := rfl
@[simp] theorem complete_c1 (s : State) : (complete s).c1 = s.c1 := rfl
@[simp] theorem complete_st (s : State) : (complete s).st = .done := rfl
@[simp] theorem complete_term (s : State) : (complete s).term = .none := rfl
@[simp] theorem complete_lastTerm (s : State) : (complete s).lastTerm = s.lastTerm := rfl
@[simp] theorem complete_fcode (s : State) : (complete s).fcode = s.fcode := rfl
@[simp] theorem complete_eng (s : State) : (complete s).eng = s.eng := rfl
@[simp] theorem complete_inbox (s : State) : (complete s).inbox = s.inbox := rfl
@[simp] theorem complete_readLog (s : State) : (complete s).readLog = s.readLog := rfl
@[simp] theorem complete_freeCount (s : State) : (complete s).freeCount = s.freeCount := rfl
@[simp] theorem complete_wasReset (s : State) : (complete s).wasReset = s.wasReset := rfl

/-! `putLink` -/

@[simp] theorem putLink_xw (lo : Word) (c : Bit) (s : State) : (putLink lo c s).xw = s.xw := rfl
@[simp] theorem putLink_yw (lo : Word) (c : Bit) (s : State) : (putLink lo c s).yw = s.yw := rfl
@[simp] theorem putLink_z1w (lo : Word) (c : Bit) (s : State) : (putLink lo c s).z1w = s.z1w := rfl
@[simp] theorem putLink_z2w (lo : Word) (c : Bit) (s : State) : (putLink lo c s).z2w = s.z2w := rfl
@[simp] theorem putLink_cin (lo : Word) (c : Bit) (s : State) : (putLink lo c s).cin = s.cin := rfl
@[simp] theorem putLink_sReg (lo : Word) (c : Bit) (s : State) : (putLink lo c s).sReg = s.sReg := rfl
@[simp] theorem putLink_a (lo : Word) (c : Bit) (s : State) : (putLink lo c s).a = s.a := rfl
@[simp] theorem putLink_b (lo : Word) (c : Bit) (s : State) : (putLink lo c s).b = s.b := rfl
@[simp] theorem putLink_rlo (lo : Word) (c : Bit) (s : State) : (putLink lo c s).rlo = lo := rfl
@[simp] theorem putLink_rhi (lo : Word) (c : Bit) (s : State) : (putLink lo c s).rhi = s.rhi := rfl
@[simp] theorem putLink_rn (lo : Word) (c : Bit) (s : State) : (putLink lo c s).rn = s.rn := rfl
@[simp] theorem putLink_cout (lo : Word) (c : Bit) (s : State) : (putLink lo c s).cout = c := rfl
@[simp] theorem putLink_c0 (lo : Word) (c : Bit) (s : State) : (putLink lo c s).c0 = s.c0 := rfl
@[simp] theorem putLink_c1 (lo : Word) (c : Bit) (s : State) : (putLink lo c s).c1 = s.c1 := rfl
@[simp] theorem putLink_st (lo : Word) (c : Bit) (s : State) : (putLink lo c s).st = s.st := rfl
@[simp] theorem putLink_term (lo : Word) (c : Bit) (s : State) : (putLink lo c s).term = s.term := rfl
@[simp] theorem putLink_lastTerm (lo : Word) (c : Bit) (s : State) : (putLink lo c s).lastTerm = s.lastTerm := rfl
@[simp] theorem putLink_fcode (lo : Word) (c : Bit) (s : State) : (putLink lo c s).fcode = s.fcode := rfl
@[simp] theorem putLink_eng (lo : Word) (c : Bit) (s : State) : (putLink lo c s).eng = s.eng := rfl
@[simp] theorem putLink_inbox (lo : Word) (c : Bit) (s : State) : (putLink lo c s).inbox = s.inbox := rfl
@[simp] theorem putLink_readLog (lo : Word) (c : Bit) (s : State) : (putLink lo c s).readLog = s.readLog := rfl
@[simp] theorem putLink_freeCount (lo : Word) (c : Bit) (s : State) : (putLink lo c s).freeCount = s.freeCount := rfl
@[simp] theorem putLink_wasReset (lo : Word) (c : Bit) (s : State) : (putLink lo c s).wasReset = s.wasReset := rfl

/-! `putProduct` -/

@[simp] theorem putProduct_xw (p : Nat) (s : State) : (putProduct p s).xw = s.xw := rfl
@[simp] theorem putProduct_yw (p : Nat) (s : State) : (putProduct p s).yw = s.yw := rfl
@[simp] theorem putProduct_z1w (p : Nat) (s : State) : (putProduct p s).z1w = s.z1w := rfl
@[simp] theorem putProduct_z2w (p : Nat) (s : State) : (putProduct p s).z2w = s.z2w := rfl
@[simp] theorem putProduct_cin (p : Nat) (s : State) : (putProduct p s).cin = s.cin := rfl
@[simp] theorem putProduct_sReg (p : Nat) (s : State) : (putProduct p s).sReg = s.sReg := rfl
@[simp] theorem putProduct_a (p : Nat) (s : State) : (putProduct p s).a = s.a := rfl
@[simp] theorem putProduct_b (p : Nat) (s : State) : (putProduct p s).b = s.b := rfl
@[simp] theorem putProduct_rlo (p : Nat) (s : State) : (putProduct p s).rlo = lowWord p := rfl
@[simp] theorem putProduct_rhi (p : Nat) (s : State) : (putProduct p s).rhi = highWord p := rfl
@[simp] theorem putProduct_rn (p : Nat) (s : State) : (putProduct p s).rn = s.rn := rfl
@[simp] theorem putProduct_cout (p : Nat) (s : State) : (putProduct p s).cout = s.cout := rfl
@[simp] theorem putProduct_c0 (p : Nat) (s : State) : (putProduct p s).c0 = s.c0 := rfl
@[simp] theorem putProduct_c1 (p : Nat) (s : State) : (putProduct p s).c1 = s.c1 := rfl
@[simp] theorem putProduct_st (p : Nat) (s : State) : (putProduct p s).st = s.st := rfl
@[simp] theorem putProduct_term (p : Nat) (s : State) : (putProduct p s).term = s.term := rfl
@[simp] theorem putProduct_lastTerm (p : Nat) (s : State) : (putProduct p s).lastTerm = s.lastTerm := rfl
@[simp] theorem putProduct_fcode (p : Nat) (s : State) : (putProduct p s).fcode = s.fcode := rfl
@[simp] theorem putProduct_eng (p : Nat) (s : State) : (putProduct p s).eng = s.eng := rfl
@[simp] theorem putProduct_inbox (p : Nat) (s : State) : (putProduct p s).inbox = s.inbox := rfl
@[simp] theorem putProduct_readLog (p : Nat) (s : State) : (putProduct p s).readLog = s.readLog := rfl
@[simp] theorem putProduct_freeCount (p : Nat) (s : State) : (putProduct p s).freeCount = s.freeCount := rfl
@[simp] theorem putProduct_wasReset (p : Nat) (s : State) : (putProduct p s).wasReset = s.wasReset := rfl

/-! `putRlo` -/

@[simp] theorem putRlo_xw (w : Word) (s : State) : (putRlo w s).xw = s.xw := rfl
@[simp] theorem putRlo_yw (w : Word) (s : State) : (putRlo w s).yw = s.yw := rfl
@[simp] theorem putRlo_z1w (w : Word) (s : State) : (putRlo w s).z1w = s.z1w := rfl
@[simp] theorem putRlo_z2w (w : Word) (s : State) : (putRlo w s).z2w = s.z2w := rfl
@[simp] theorem putRlo_cin (w : Word) (s : State) : (putRlo w s).cin = s.cin := rfl
@[simp] theorem putRlo_sReg (w : Word) (s : State) : (putRlo w s).sReg = s.sReg := rfl
@[simp] theorem putRlo_a (w : Word) (s : State) : (putRlo w s).a = s.a := rfl
@[simp] theorem putRlo_b (w : Word) (s : State) : (putRlo w s).b = s.b := rfl
@[simp] theorem putRlo_rlo (w : Word) (s : State) : (putRlo w s).rlo = w := rfl
@[simp] theorem putRlo_rhi (w : Word) (s : State) : (putRlo w s).rhi = s.rhi := rfl
@[simp] theorem putRlo_rn (w : Word) (s : State) : (putRlo w s).rn = s.rn := rfl
@[simp] theorem putRlo_cout (w : Word) (s : State) : (putRlo w s).cout = s.cout := rfl
@[simp] theorem putRlo_c0 (w : Word) (s : State) : (putRlo w s).c0 = s.c0 := rfl
@[simp] theorem putRlo_c1 (w : Word) (s : State) : (putRlo w s).c1 = s.c1 := rfl
@[simp] theorem putRlo_st (w : Word) (s : State) : (putRlo w s).st = s.st := rfl
@[simp] theorem putRlo_term (w : Word) (s : State) : (putRlo w s).term = s.term := rfl
@[simp] theorem putRlo_lastTerm (w : Word) (s : State) : (putRlo w s).lastTerm = s.lastTerm := rfl
@[simp] theorem putRlo_fcode (w : Word) (s : State) : (putRlo w s).fcode = s.fcode := rfl
@[simp] theorem putRlo_eng (w : Word) (s : State) : (putRlo w s).eng = s.eng := rfl
@[simp] theorem putRlo_inbox (w : Word) (s : State) : (putRlo w s).inbox = s.inbox := rfl
@[simp] theorem putRlo_readLog (w : Word) (s : State) : (putRlo w s).readLog = s.readLog := rfl
@[simp] theorem putRlo_freeCount (w : Word) (s : State) : (putRlo w s).freeCount = s.freeCount := rfl
@[simp] theorem putRlo_wasReset (w : Word) (s : State) : (putRlo w s).wasReset = s.wasReset := rfl

/-! `putRn` -/

@[simp] theorem putRn_xw (n : Nat) (s : State) : (putRn n s).xw = s.xw := rfl
@[simp] theorem putRn_yw (n : Nat) (s : State) : (putRn n s).yw = s.yw := rfl
@[simp] theorem putRn_z1w (n : Nat) (s : State) : (putRn n s).z1w = s.z1w := rfl
@[simp] theorem putRn_z2w (n : Nat) (s : State) : (putRn n s).z2w = s.z2w := rfl
@[simp] theorem putRn_cin (n : Nat) (s : State) : (putRn n s).cin = s.cin := rfl
@[simp] theorem putRn_sReg (n : Nat) (s : State) : (putRn n s).sReg = s.sReg := rfl
@[simp] theorem putRn_a (n : Nat) (s : State) : (putRn n s).a = s.a := rfl
@[simp] theorem putRn_b (n : Nat) (s : State) : (putRn n s).b = s.b := rfl
@[simp] theorem putRn_rlo (n : Nat) (s : State) : (putRn n s).rlo = s.rlo := rfl
@[simp] theorem putRn_rhi (n : Nat) (s : State) : (putRn n s).rhi = s.rhi := rfl
@[simp] theorem putRn_rn (n : Nat) (s : State) : (putRn n s).rn = BitVec.ofNat 32 n := rfl
@[simp] theorem putRn_cout (n : Nat) (s : State) : (putRn n s).cout = s.cout := rfl
@[simp] theorem putRn_c0 (n : Nat) (s : State) : (putRn n s).c0 = s.c0 := rfl
@[simp] theorem putRn_c1 (n : Nat) (s : State) : (putRn n s).c1 = s.c1 := rfl
@[simp] theorem putRn_st (n : Nat) (s : State) : (putRn n s).st = s.st := rfl
@[simp] theorem putRn_term (n : Nat) (s : State) : (putRn n s).term = s.term := rfl
@[simp] theorem putRn_lastTerm (n : Nat) (s : State) : (putRn n s).lastTerm = s.lastTerm := rfl
@[simp] theorem putRn_fcode (n : Nat) (s : State) : (putRn n s).fcode = s.fcode := rfl
@[simp] theorem putRn_eng (n : Nat) (s : State) : (putRn n s).eng = s.eng := rfl
@[simp] theorem putRn_inbox (n : Nat) (s : State) : (putRn n s).inbox = s.inbox := rfl
@[simp] theorem putRn_readLog (n : Nat) (s : State) : (putRn n s).readLog = s.readLog := rfl
@[simp] theorem putRn_freeCount (n : Nat) (s : State) : (putRn n s).freeCount = s.freeCount := rfl
@[simp] theorem putRn_wasReset (n : Nat) (s : State) : (putRn n s).wasReset = s.wasReset := rfl

/-! `putFlag` -/

@[simp] theorem putFlag_xw (c : Bool) (s : State) : (putFlag c s).xw = s.xw := rfl
@[simp] theorem putFlag_yw (c : Bool) (s : State) : (putFlag c s).yw = s.yw := rfl
@[simp] theorem putFlag_z1w (c : Bool) (s : State) : (putFlag c s).z1w = s.z1w := rfl
@[simp] theorem putFlag_z2w (c : Bool) (s : State) : (putFlag c s).z2w = s.z2w := rfl
@[simp] theorem putFlag_cin (c : Bool) (s : State) : (putFlag c s).cin = s.cin := rfl
@[simp] theorem putFlag_sReg (c : Bool) (s : State) : (putFlag c s).sReg = s.sReg := rfl
@[simp] theorem putFlag_a (c : Bool) (s : State) : (putFlag c s).a = s.a := rfl
@[simp] theorem putFlag_b (c : Bool) (s : State) : (putFlag c s).b = s.b := rfl
@[simp] theorem putFlag_rlo (c : Bool) (s : State) : (putFlag c s).rlo = s.rlo := rfl
@[simp] theorem putFlag_rhi (c : Bool) (s : State) : (putFlag c s).rhi = s.rhi := rfl
@[simp] theorem putFlag_rn (c : Bool) (s : State) : (putFlag c s).rn = s.rn := rfl
@[simp] theorem putFlag_cout (c : Bool) (s : State) : (putFlag c s).cout = flagBit c := rfl
@[simp] theorem putFlag_c0 (c : Bool) (s : State) : (putFlag c s).c0 = s.c0 := rfl
@[simp] theorem putFlag_c1 (c : Bool) (s : State) : (putFlag c s).c1 = s.c1 := rfl
@[simp] theorem putFlag_st (c : Bool) (s : State) : (putFlag c s).st = s.st := rfl
@[simp] theorem putFlag_term (c : Bool) (s : State) : (putFlag c s).term = s.term := rfl
@[simp] theorem putFlag_lastTerm (c : Bool) (s : State) : (putFlag c s).lastTerm = s.lastTerm := rfl
@[simp] theorem putFlag_fcode (c : Bool) (s : State) : (putFlag c s).fcode = s.fcode := rfl
@[simp] theorem putFlag_eng (c : Bool) (s : State) : (putFlag c s).eng = s.eng := rfl
@[simp] theorem putFlag_inbox (c : Bool) (s : State) : (putFlag c s).inbox = s.inbox := rfl
@[simp] theorem putFlag_readLog (c : Bool) (s : State) : (putFlag c s).readLog = s.readLog := rfl
@[simp] theorem putFlag_freeCount (c : Bool) (s : State) : (putFlag c s).freeCount = s.freeCount := rfl
@[simp] theorem putFlag_wasReset (c : Bool) (s : State) : (putFlag c s).wasReset = s.wasReset := rfl

/-! `putA` -/

@[simp] theorem putA_xw (x : Limbs) (s : State) : (putA x s).xw = s.xw := rfl
@[simp] theorem putA_yw (x : Limbs) (s : State) : (putA x s).yw = s.yw := rfl
@[simp] theorem putA_z1w (x : Limbs) (s : State) : (putA x s).z1w = s.z1w := rfl
@[simp] theorem putA_z2w (x : Limbs) (s : State) : (putA x s).z2w = s.z2w := rfl
@[simp] theorem putA_cin (x : Limbs) (s : State) : (putA x s).cin = s.cin := rfl
@[simp] theorem putA_sReg (x : Limbs) (s : State) : (putA x s).sReg = s.sReg := rfl
@[simp] theorem putA_a (x : Limbs) (s : State) : (putA x s).a = storeLow s.a x := rfl
@[simp] theorem putA_b (x : Limbs) (s : State) : (putA x s).b = s.b := rfl
@[simp] theorem putA_rlo (x : Limbs) (s : State) : (putA x s).rlo = s.rlo := rfl
@[simp] theorem putA_rhi (x : Limbs) (s : State) : (putA x s).rhi = s.rhi := rfl
@[simp] theorem putA_rn (x : Limbs) (s : State) : (putA x s).rn = s.rn := rfl
@[simp] theorem putA_cout (x : Limbs) (s : State) : (putA x s).cout = s.cout := rfl
@[simp] theorem putA_c0 (x : Limbs) (s : State) : (putA x s).c0 = s.c0 := rfl
@[simp] theorem putA_c1 (x : Limbs) (s : State) : (putA x s).c1 = s.c1 := rfl
@[simp] theorem putA_st (x : Limbs) (s : State) : (putA x s).st = s.st := rfl
@[simp] theorem putA_term (x : Limbs) (s : State) : (putA x s).term = s.term := rfl
@[simp] theorem putA_lastTerm (x : Limbs) (s : State) : (putA x s).lastTerm = s.lastTerm := rfl
@[simp] theorem putA_fcode (x : Limbs) (s : State) : (putA x s).fcode = s.fcode := rfl
@[simp] theorem putA_eng (x : Limbs) (s : State) : (putA x s).eng = s.eng := rfl
@[simp] theorem putA_inbox (x : Limbs) (s : State) : (putA x s).inbox = s.inbox := rfl
@[simp] theorem putA_readLog (x : Limbs) (s : State) : (putA x s).readLog = s.readLog := rfl
@[simp] theorem putA_freeCount (x : Limbs) (s : State) : (putA x s).freeCount = s.freeCount := rfl
@[simp] theorem putA_wasReset (x : Limbs) (s : State) : (putA x s).wasReset = s.wasReset := rfl

/-! `putB` -/

@[simp] theorem putB_xw (x : Limbs) (s : State) : (putB x s).xw = s.xw := rfl
@[simp] theorem putB_yw (x : Limbs) (s : State) : (putB x s).yw = s.yw := rfl
@[simp] theorem putB_z1w (x : Limbs) (s : State) : (putB x s).z1w = s.z1w := rfl
@[simp] theorem putB_z2w (x : Limbs) (s : State) : (putB x s).z2w = s.z2w := rfl
@[simp] theorem putB_cin (x : Limbs) (s : State) : (putB x s).cin = s.cin := rfl
@[simp] theorem putB_sReg (x : Limbs) (s : State) : (putB x s).sReg = s.sReg := rfl
@[simp] theorem putB_a (x : Limbs) (s : State) : (putB x s).a = s.a := rfl
@[simp] theorem putB_b (x : Limbs) (s : State) : (putB x s).b = storeLow s.b x := rfl
@[simp] theorem putB_rlo (x : Limbs) (s : State) : (putB x s).rlo = s.rlo := rfl
@[simp] theorem putB_rhi (x : Limbs) (s : State) : (putB x s).rhi = s.rhi := rfl
@[simp] theorem putB_rn (x : Limbs) (s : State) : (putB x s).rn = s.rn := rfl
@[simp] theorem putB_cout (x : Limbs) (s : State) : (putB x s).cout = s.cout := rfl
@[simp] theorem putB_c0 (x : Limbs) (s : State) : (putB x s).c0 = s.c0 := rfl
@[simp] theorem putB_c1 (x : Limbs) (s : State) : (putB x s).c1 = s.c1 := rfl
@[simp] theorem putB_st (x : Limbs) (s : State) : (putB x s).st = s.st := rfl
@[simp] theorem putB_term (x : Limbs) (s : State) : (putB x s).term = s.term := rfl
@[simp] theorem putB_lastTerm (x : Limbs) (s : State) : (putB x s).lastTerm = s.lastTerm := rfl
@[simp] theorem putB_fcode (x : Limbs) (s : State) : (putB x s).fcode = s.fcode := rfl
@[simp] theorem putB_eng (x : Limbs) (s : State) : (putB x s).eng = s.eng := rfl
@[simp] theorem putB_inbox (x : Limbs) (s : State) : (putB x s).inbox = s.inbox := rfl
@[simp] theorem putB_readLog (x : Limbs) (s : State) : (putB x s).readLog = s.readLog := rfl
@[simp] theorem putB_freeCount (x : Limbs) (s : State) : (putB x s).freeCount = s.freeCount := rfl
@[simp] theorem putB_wasReset (x : Limbs) (s : State) : (putB x s).wasReset = s.wasReset := rfl

/-! `raiseFault` -/

@[simp] theorem raiseFault_xw (c : CmdFault) (s : State) : (raiseFault c s).xw = s.xw := rfl
@[simp] theorem raiseFault_yw (c : CmdFault) (s : State) : (raiseFault c s).yw = s.yw := rfl
@[simp] theorem raiseFault_z1w (c : CmdFault) (s : State) : (raiseFault c s).z1w = s.z1w := rfl
@[simp] theorem raiseFault_z2w (c : CmdFault) (s : State) : (raiseFault c s).z2w = s.z2w := rfl
@[simp] theorem raiseFault_cin (c : CmdFault) (s : State) : (raiseFault c s).cin = s.cin := rfl
@[simp] theorem raiseFault_sReg (c : CmdFault) (s : State) : (raiseFault c s).sReg = s.sReg := rfl
@[simp] theorem raiseFault_a (c : CmdFault) (s : State) : (raiseFault c s).a = s.a := rfl
@[simp] theorem raiseFault_b (c : CmdFault) (s : State) : (raiseFault c s).b = s.b := rfl
@[simp] theorem raiseFault_rlo (c : CmdFault) (s : State) : (raiseFault c s).rlo = s.rlo := rfl
@[simp] theorem raiseFault_rhi (c : CmdFault) (s : State) : (raiseFault c s).rhi = s.rhi := rfl
@[simp] theorem raiseFault_rn (c : CmdFault) (s : State) : (raiseFault c s).rn = s.rn := rfl
@[simp] theorem raiseFault_cout (c : CmdFault) (s : State) : (raiseFault c s).cout = s.cout := rfl
@[simp] theorem raiseFault_c0 (c : CmdFault) (s : State) : (raiseFault c s).c0 = s.c0 := rfl
@[simp] theorem raiseFault_c1 (c : CmdFault) (s : State) : (raiseFault c s).c1 = s.c1 := rfl
@[simp] theorem raiseFault_st (c : CmdFault) (s : State) : (raiseFault c s).st = .fault := rfl
@[simp] theorem raiseFault_term (c : CmdFault) (s : State) : (raiseFault c s).term = .none := rfl
@[simp] theorem raiseFault_lastTerm (c : CmdFault) (s : State) : (raiseFault c s).lastTerm = s.lastTerm := rfl
@[simp] theorem raiseFault_fcode (c : CmdFault) (s : State) : (raiseFault c s).fcode = some c := rfl
@[simp] theorem raiseFault_eng (c : CmdFault) (s : State) : (raiseFault c s).eng = { s.eng with lstate := .idle } := rfl
@[simp] theorem raiseFault_inbox (c : CmdFault) (s : State) : (raiseFault c s).inbox = s.inbox := rfl
@[simp] theorem raiseFault_readLog (c : CmdFault) (s : State) : (raiseFault c s).readLog = s.readLog := rfl
@[simp] theorem raiseFault_freeCount (c : CmdFault) (s : State) : (raiseFault c s).freeCount = s.freeCount := rfl
@[simp] theorem raiseFault_wasReset (c : CmdFault) (s : State) : (raiseFault c s).wasReset = s.wasReset := rfl

/-! `finishRun` -/

@[simp] theorem finishRun_xw (r : Term) (e : Engine) (s : State) : (finishRun r e s).xw = s.xw := rfl
@[simp] theorem finishRun_yw (r : Term) (e : Engine) (s : State) : (finishRun r e s).yw = s.yw := rfl
@[simp] theorem finishRun_z1w (r : Term) (e : Engine) (s : State) : (finishRun r e s).z1w = s.z1w := rfl
@[simp] theorem finishRun_z2w (r : Term) (e : Engine) (s : State) : (finishRun r e s).z2w = s.z2w := rfl
@[simp] theorem finishRun_cin (r : Term) (e : Engine) (s : State) : (finishRun r e s).cin = s.cin := rfl
@[simp] theorem finishRun_sReg (r : Term) (e : Engine) (s : State) : (finishRun r e s).sReg = s.sReg := rfl
@[simp] theorem finishRun_a (r : Term) (e : Engine) (s : State) : (finishRun r e s).a = s.a := rfl
@[simp] theorem finishRun_b (r : Term) (e : Engine) (s : State) : (finishRun r e s).b = s.b := rfl
@[simp] theorem finishRun_rlo (r : Term) (e : Engine) (s : State) : (finishRun r e s).rlo = s.rlo := rfl
@[simp] theorem finishRun_rhi (r : Term) (e : Engine) (s : State) : (finishRun r e s).rhi = s.rhi := rfl
@[simp] theorem finishRun_rn (r : Term) (e : Engine) (s : State) : (finishRun r e s).rn = s.rn := rfl
@[simp] theorem finishRun_cout (r : Term) (e : Engine) (s : State) : (finishRun r e s).cout = s.cout := rfl
@[simp] theorem finishRun_c0 (r : Term) (e : Engine) (s : State) : (finishRun r e s).c0 = storeLow s.c0 e.v0 := rfl
@[simp] theorem finishRun_c1 (r : Term) (e : Engine) (s : State) : (finishRun r e s).c1 = storeLow s.c1 e.v1 := rfl
@[simp] theorem finishRun_st (r : Term) (e : Engine) (s : State) : (finishRun r e s).st = .done := rfl
@[simp] theorem finishRun_term (r : Term) (e : Engine) (s : State) : (finishRun r e s).term = r := rfl
@[simp] theorem finishRun_lastTerm (r : Term) (e : Engine) (s : State) : (finishRun r e s).lastTerm = r := rfl
@[simp] theorem finishRun_fcode (r : Term) (e : Engine) (s : State) : (finishRun r e s).fcode = s.fcode := rfl
@[simp] theorem finishRun_eng (r : Term) (e : Engine) (s : State) : (finishRun r e s).eng = { e with lstate := .idle } := rfl
@[simp] theorem finishRun_inbox (r : Term) (e : Engine) (s : State) : (finishRun r e s).inbox = s.inbox := rfl
@[simp] theorem finishRun_readLog (r : Term) (e : Engine) (s : State) : (finishRun r e s).readLog = s.readLog := rfl
@[simp] theorem finishRun_freeCount (r : Term) (e : Engine) (s : State) : (finishRun r e s).freeCount = s.freeCount := rfl
@[simp] theorem finishRun_wasReset (r : Term) (e : Engine) (s : State) : (finishRun r e s).wasReset = s.wasReset := rfl

/-! `hostRead` -/

@[simp] theorem hostRead_xw (r : Reg) (s : State) : (hostRead r s).xw = s.xw := rfl
@[simp] theorem hostRead_yw (r : Reg) (s : State) : (hostRead r s).yw = s.yw := rfl
@[simp] theorem hostRead_z1w (r : Reg) (s : State) : (hostRead r s).z1w = s.z1w := rfl
@[simp] theorem hostRead_z2w (r : Reg) (s : State) : (hostRead r s).z2w = s.z2w := rfl
@[simp] theorem hostRead_cin (r : Reg) (s : State) : (hostRead r s).cin = s.cin := rfl
@[simp] theorem hostRead_sReg (r : Reg) (s : State) : (hostRead r s).sReg = s.sReg := rfl
@[simp] theorem hostRead_a (r : Reg) (s : State) : (hostRead r s).a = s.a := rfl
@[simp] theorem hostRead_b (r : Reg) (s : State) : (hostRead r s).b = s.b := rfl
@[simp] theorem hostRead_rlo (r : Reg) (s : State) : (hostRead r s).rlo = s.rlo := rfl
@[simp] theorem hostRead_rhi (r : Reg) (s : State) : (hostRead r s).rhi = s.rhi := rfl
@[simp] theorem hostRead_rn (r : Reg) (s : State) : (hostRead r s).rn = s.rn := rfl
@[simp] theorem hostRead_cout (r : Reg) (s : State) : (hostRead r s).cout = s.cout := rfl
@[simp] theorem hostRead_c0 (r : Reg) (s : State) : (hostRead r s).c0 = s.c0 := rfl
@[simp] theorem hostRead_c1 (r : Reg) (s : State) : (hostRead r s).c1 = s.c1 := rfl
@[simp] theorem hostRead_st (r : Reg) (s : State) : (hostRead r s).st = s.st := rfl
@[simp] theorem hostRead_term (r : Reg) (s : State) : (hostRead r s).term = s.term := rfl
@[simp] theorem hostRead_lastTerm (r : Reg) (s : State) : (hostRead r s).lastTerm = s.lastTerm := rfl
@[simp] theorem hostRead_fcode (r : Reg) (s : State) : (hostRead r s).fcode = s.fcode := rfl
@[simp] theorem hostRead_eng (r : Reg) (s : State) : (hostRead r s).eng = s.eng := rfl
@[simp] theorem hostRead_inbox (r : Reg) (s : State) : (hostRead r s).inbox = s.inbox := rfl
@[simp] theorem hostRead_readLog (r : Reg) (s : State) : (hostRead r s).readLog = readReg s r :: s.readLog := rfl
@[simp] theorem hostRead_freeCount (r : Reg) (s : State) : (hostRead r s).freeCount = s.freeCount + drawsOnRead r := rfl
@[simp] theorem hostRead_wasReset (r : Reg) (s : State) : (hostRead r s).wasReset = s.wasReset := rfl

/-! `writeReg` touches operand registers alone -/

@[simp] theorem writeReg_rlo (r : Reg) (v : Word) (s : State) : (writeReg r v s).rlo = s.rlo := by
  cases r <;> rfl
@[simp] theorem writeReg_rhi (r : Reg) (v : Word) (s : State) : (writeReg r v s).rhi = s.rhi := by
  cases r <;> rfl
@[simp] theorem writeReg_rn (r : Reg) (v : Word) (s : State) : (writeReg r v s).rn = s.rn := by
  cases r <;> rfl
@[simp] theorem writeReg_cout (r : Reg) (v : Word) (s : State) : (writeReg r v s).cout = s.cout := by
  cases r <;> rfl
@[simp] theorem writeReg_c0 (r : Reg) (v : Word) (s : State) : (writeReg r v s).c0 = s.c0 := by
  cases r <;> rfl
@[simp] theorem writeReg_c1 (r : Reg) (v : Word) (s : State) : (writeReg r v s).c1 = s.c1 := by
  cases r <;> rfl
@[simp] theorem writeReg_st (r : Reg) (v : Word) (s : State) : (writeReg r v s).st = s.st := by
  cases r <;> rfl
@[simp] theorem writeReg_term (r : Reg) (v : Word) (s : State) : (writeReg r v s).term = s.term := by
  cases r <;> rfl
@[simp] theorem writeReg_lastTerm (r : Reg) (v : Word) (s : State) : (writeReg r v s).lastTerm = s.lastTerm := by
  cases r <;> rfl
@[simp] theorem writeReg_fcode (r : Reg) (v : Word) (s : State) : (writeReg r v s).fcode = s.fcode := by
  cases r <;> rfl
@[simp] theorem writeReg_eng (r : Reg) (v : Word) (s : State) : (writeReg r v s).eng = s.eng := by
  cases r <;> rfl
@[simp] theorem writeReg_inbox (r : Reg) (v : Word) (s : State) : (writeReg r v s).inbox = s.inbox := by
  cases r <;> rfl
@[simp] theorem writeReg_readLog (r : Reg) (v : Word) (s : State) : (writeReg r v s).readLog = s.readLog := by
  cases r <;> rfl
@[simp] theorem writeReg_freeCount (r : Reg) (v : Word) (s : State) : (writeReg r v s).freeCount = s.freeCount := by
  cases r <;> rfl
@[simp] theorem writeReg_wasReset (r : Reg) (v : Word) (s : State) : (writeReg r v s).wasReset = s.wasReset := by
  cases r <;> rfl

/-! `resetEvent` leaves the control state of R251 and what belongs to the host -/

@[simp] theorem resetEvent_st (s : State) : (resetEvent s).st = .idle := rfl
@[simp] theorem resetEvent_term (s : State) : (resetEvent s).term = .none := rfl
@[simp] theorem resetEvent_lastTerm (s : State) : (resetEvent s).lastTerm = .none := rfl
@[simp] theorem resetEvent_fcode (s : State) : (resetEvent s).fcode = none := rfl
@[simp] theorem resetEvent_inbox (s : State) : (resetEvent s).inbox = s.inbox := rfl
@[simp] theorem resetEvent_readLog (s : State) : (resetEvent s).readLog = s.readLog := rfl
@[simp] theorem resetEvent_freeCount (s : State) : (resetEvent s).freeCount = s.freeCount + resetDraws := rfl
@[simp] theorem resetEvent_wasReset (s : State) : (resetEvent s).wasReset = true := rfl
@[simp] theorem resetEvent_eng (s : State) : (resetEvent s).eng = resetEngine s.freeCount := rfl
@[simp] theorem resetEngine_lstate (c : Nat) : (resetEngine c).lstate = .idle := rfl

/-! `termShown`: the field, but for a running reduce -/

theorem termShown_busy {s : State} (h : s.st = .busy) : termShown s = s.lastTerm := by simp [termShown, h]
theorem termShown_of_ne {s : State} (h : s.st ≠ .busy) : termShown s = s.term := by
  unfold termShown
  cases hs : s.st <;> simp_all

end Sys2Proof.Machine
end

