-- ==== Sys2Proof/Laws/Engine.lean ====
section
/-! SUPPORT. What one iteration of the engine can do, said once per part (spec/42_lattice_reduction.md R178 to R191). -/

namespace Sys2Proof.Machine

/-- Part 1 either leaves the engine alone, nu being at least nv, or exchanges the two vectors, nu being below nv (R178). -/
theorem orderVectors_cases (e : Engine) :
    (uval e.nv ≤ uval e.nu ∧ orderVectors e = e) ∨
    (uval e.nu < uval e.nv ∧
      orderVectors e = { e with u0 := e.v0, v0 := e.u0, u1 := e.v1, v1 := e.u1, nu := e.nv, nv := e.nu }) := by
  unfold orderVectors lessThan
  by_cases h : uval e.nu < uval e.nv
  · exact .inr ⟨h, by simp [h]⟩
  · exact .inl ⟨by omega, by simp [h]⟩

/-- After part 1 nu is at least nv (R178). -/
theorem orderVectors_ordered (e : Engine) : uval (orderVectors e).nv ≤ uval (orderVectors e).nu := by
  rcases orderVectors_cases e with ⟨h, he⟩ | ⟨h, he⟩ <;> rw [he]
  · exact h
  · exact h.le

@[simp] theorem orderVectors_sp (e : Engine) : (orderVectors e).sp = e.sp := by unfold orderVectors; split <;> rfl
@[simp] theorem orderVectors_lstate (e : Engine) : (orderVectors e).lstate = e.lstate := by
  unfold orderVectors; split <;> rfl
@[simp] theorem orderVectors_first (e : Engine) : (orderVectors e).first = e.first := by
  unfold orderVectors; split <;> rfl
@[simp] theorem orderVectors_stallc (e : Engine) : (orderVectors e).stallc = e.stallc := by
  unfold orderVectors; split <;> rfl
@[simp] theorem orderVectors_prevbl (e : Engine) : (orderVectors e).prevbl = e.prevbl := by
  unfold orderVectors; split <;> rfl
@[simp] theorem orderVectors_prevv (e : Engine) : (orderVectors e).prevv = e.prevv := by
  unfold orderVectors; split <;> rfl
@[simp] theorem orderVectors_maxbl (e : Engine) : (orderVectors e).maxbl = e.maxbl := by
  unfold orderVectors; split <;> rfl
@[simp] theorem orderVectors_inst (e : Engine) : (orderVectors e).inst = e.inst := by
  unfold orderVectors; split <;> rfl

/-- Part 4 takes the subtracting branch at the first iteration or with sp not negative, the adding branch otherwise
(R181, R182). -/
theorem reduceVector_cases (e : Engine) :
    ((e.first = true ∨ isNegative e.sp = false) ∧ reduceVector e = subtractStep (shiftAmount e) e) ∨
    ((e.first = false ∧ isNegative e.sp = true) ∧ reduceVector e = addStep (shiftAmount e) e) := by
  unfold reduceVector
  cases e.first <;> cases isNegative e.sp <;> simp

@[simp] theorem reduceVector_v0 (e : Engine) : (reduceVector e).v0 = e.v0 := by unfold reduceVector; split <;> rfl
@[simp] theorem reduceVector_v1 (e : Engine) : (reduceVector e).v1 = e.v1 := by unfold reduceVector; split <;> rfl
@[simp] theorem reduceVector_nv (e : Engine) : (reduceVector e).nv = e.nv := by unfold reduceVector; split <;> rfl
@[simp] theorem reduceVector_lstate (e : Engine) : (reduceVector e).lstate = e.lstate := by
  unfold reduceVector; split <;> rfl
@[simp] theorem reduceVector_first (e : Engine) : (reduceVector e).first = false := by
  unfold reduceVector; split <;> rfl
@[simp] theorem reduceVector_stallc (e : Engine) : (reduceVector e).stallc = e.stallc := by
  unfold reduceVector; split <;> rfl
@[simp] theorem reduceVector_prevbl (e : Engine) : (reduceVector e).prevbl = e.prevbl := by
  unfold reduceVector; split <;> rfl
@[simp] theorem reduceVector_prevv (e : Engine) : (reduceVector e).prevv = e.prevv := by
  unfold reduceVector; split <;> rfl
@[simp] theorem reduceVector_maxbl (e : Engine) : (reduceVector e).maxbl = e.maxbl := by
  unfold reduceVector; split <;> rfl
@[simp] theorem reduceVector_inst (e : Engine) : (reduceVector e).inst = e.inst := by
  unfold reduceVector; split <;> rfl
@[simp] theorem reduceVector_u0_length (e : Engine) : (reduceVector e).u0.length = e.u0.length := by
  unfold reduceVector; split <;> simp [subtractStep, addStep]
@[simp] theorem reduceVector_u1_length (e : Engine) : (reduceVector e).u1.length = e.u1.length := by
  unfold reduceVector; split <;> simp [subtractStep, addStep]
@[simp] theorem reduceVector_nu_length (e : Engine) : (reduceVector e).nu.length = e.nu.length := by
  unfold reduceVector; split <;> simp [subtractStep, addStep]
@[simp] theorem reduceVector_sp_length (e : Engine) : (reduceVector e).sp.length = e.sp.length := by
  unfold reduceVector; split <;> simp [subtractStep, addStep]

/-- What a phase-1 iteration can do: meet the budget, leave for phase 2, or reduce u (R184). -/
theorem phase1_cases (l2 : Nat) (e : Engine) :
    (budgetMet (orderVectors e) = true ∧ phase1 l2 e = .finishes .budget (orderVectors e)) ∨
    (budgetMet (orderVectors e) = false ∧ fitsBelow (orderVectors e).nu l2 = true ∧
      phase1 l2 e = .goesOn (shrink l2 (orderVectors e))) ∨
    (budgetMet (orderVectors e) = false ∧ fitsBelow (orderVectors e).nu l2 = false ∧
      phase1 l2 e = .goesOn (reduceVector (orderVectors e))) := by
  unfold phase1
  cases h1 : budgetMet (orderVectors e) <;> cases h2 : fitsBelow (orderVectors e).nu l2 <;> simp [h1, h2]

/-- What the guard can do: end the run at an increase or past the threshold, count an equality, or start again (R188). -/
theorem guardStep_cases (e : Engine) :
    (e.prevv = true ∧ e.prevbl ≤ bitLength e.sp ∧ (e.prevbl < bitLength e.sp ∨ stallThreshold < e.stallc + 1) ∧
      guardStep e = .finishes .stall { e with stallc := e.stallc + 1 }) ∨
    (e.prevv = true ∧ e.prevbl = bitLength e.sp ∧ e.stallc + 1 ≤ stallThreshold ∧
      guardStep e = .goesOn { e with stallc := e.stallc + 1, prevbl := bitLength e.sp, prevv := true }) ∨
    ((e.prevv = false ∨ bitLength e.sp < e.prevbl) ∧
      guardStep e = .goesOn { e with stallc := 0, prevbl := bitLength e.sp, prevv := true }) := by
  unfold guardStep
  by_cases hp : e.prevv = true
  · by_cases hb : e.prevbl ≤ bitLength e.sp
    · by_cases hs : e.prevbl < bitLength e.sp ∨ stallThreshold < e.stallc + 1
      · exact .inl ⟨hp, hb, hs, by simp [hp, hb]; omega⟩
      · refine .inr (.inl ⟨hp, by omega, by omega, ?_⟩)
        simp [hp, hb]; omega
    · exact .inr (.inr ⟨.inr (by omega), by simp [hp, hb]⟩)
  · exact .inr (.inr ⟨.inl (by simpa using hp), by simp [hp]⟩)

/-- What a phase-2 iteration can do: meet the budget, be ended by the guard, or reduce u (R186). -/
theorem phase2_cases (e : Engine) :
    (budgetMet (orderVectors e) = true ∧ phase2 e = .finishes .budget (orderVectors e)) ∨
    (budgetMet (orderVectors e) = false ∧ ∃ e2, guardStep (orderVectors e) = .finishes .stall e2 ∧
      phase2 e = .finishes .stall e2) ∨
    (budgetMet (orderVectors e) = false ∧ ∃ e2, guardStep (orderVectors e) = .goesOn e2 ∧
      phase2 e = .goesOn (reduceVector e2)) := by
  unfold phase2
  cases h1 : budgetMet (orderVectors e)
  · rcases guardStep_cases (orderVectors e) with ⟨-, -, -, h⟩ | ⟨-, -, -, h⟩ | ⟨-, h⟩
    · exact .inr (.inl ⟨rfl, _, h, by simp [h1, h]⟩)
    · exact .inr (.inr ⟨rfl, _, h, by simp [h1, h]⟩)
    · exact .inr (.inr ⟨rfl, _, h, by simp [h1, h]⟩)
  · exact .inl ⟨rfl, by simp [h1]⟩

/-- What an engine step can do: nothing when the engine is idle, else one iteration of its phase put into the state. -/
theorem engineStep_cases (s : State) :
    (s.eng.lstate = .idle ∧ engineStep s = s) ∨
    (s.eng.lstate = .p1 ∧ engineStep s = applyIteration (phase1 (instL2 s.eng.inst) s.eng) s) ∨
    (s.eng.lstate = .p2 ∧ engineStep s = applyIteration (phase2 s.eng) s) := by
  unfold engineStep
  cases h : s.eng.lstate <;> simp

/-- The lengths R12 gives, in their order: L0 ≤ L1 < L2 < L3 for every choice of N2. -/
theorem instL_order (i : Inst) :
    0 < instL0 i ∧ instL0 i ≤ instL1 i ∧ instL1 i < instL2 i ∧ instL2 i < instL3 i ∧ instL3 i ≤ 32 := by
  have h : ∀ i c, 0 < instL0 i ∧ instL0 i ≤ instL1 i ∧ instL1 i < chosenL2 i c ∧ chosenL2 i c < instL3 i ∧
      instL3 i ≤ 32 := by
    intro i c
    cases i <;> revert c <;> decide
  exact h i _

end Sys2Proof.Machine
end

