-- ==== Sys2Proof/Laws/Ops.lean ====
section
/-! SUPPORT. What each shared operation can do, said once. -/

namespace Sys2Proof.Machine

/-- A command always answers a next state: the faults of the block are taken as next states (R224). -/
theorem exec_answers_next (i : Instr) (s : State) : ∃ t, exec i s = .next t := by
  cases i with
  | fitsBelow w => change ∃ t, execFitsBelow w s = .next t; unfold execFitsBelow; split <;> exact ⟨_, rfl⟩
  | reduce254 w => change ∃ t, execReduce254 w s = .next t; unfold execReduce254; split <;> exact ⟨_, rfl⟩
  | _ => exact ⟨_, rfl⟩

/-- What a write to CMD can do (R222). -/
theorem writeCmd_cases {v : Word} {s : State} {r : Result} (h : writeCmd v s = r) :
    ((s.st = .idle ∨ s.st = .done) ∧ ∃ i, decode v = .cmd i ∧ r = exec i s) ∨
    ((s.st = .idle ∨ s.st = .done) ∧ ∃ c, decode v = .illegal c ∧ r = .next (raiseFault c s)) ∨
    (s.st = .busy ∧ r = .next (raiseFault .busyCmd s)) ∨
    (s.st = .fault ∧ r = .next s) := by
  subst h
  unfold writeCmd
  cases hs : s.st <;> simp only [reduceCtorEq, or_false, or_true, true_and, false_and, or_self]
  all_goals cases hd : decode v <;> simp

/-- What an event can do to a block that has been reset. -/
theorem eventResult_cases {e : Event} {s t : State} (h : eventResult e s = .next t) :
    (∃ r, e = .read r ∧ t = hostRead r s) ∨
    (∃ r v, e = .write r v ∧ r ≠ .cmd ∧ t = writeReg r v s) ∨
    (∃ v, e = .write .cmd v ∧ writeCmd v s = .next t) ∨
    (e = .movf ∧ t = movfEvent s) ∨
    (e = .wait ∧ t = waitEvent s) ∨
    (e = .engine ∧ t = engineStep s) ∨
    (e = .reset ∧ t = resetEvent s) := by
  cases e with
  | write r v =>
    by_cases hr : r = .cmd
    · subst hr
      refine .inr (.inr (.inl ⟨v, rfl, ?_⟩))
      simpa [eventResult, hostWrite] using h
    · refine .inr (.inl ⟨r, v, rfl, hr, ?_⟩)
      simpa [eventResult, hostWrite, hr, eq_comm] using h
  | _ => simp_all [eventResult, eq_comm]

/-- What a step can do: with no event waiting the engine steps; else the first event leaves the inbox and happens, and
before the first reset it must be a reset (R253). -/
theorem step_cases {s t : State} (h : step s = .next t) :
    (s.inbox = [] ∧ s.wasReset = true ∧ t = engineStep s) ∨
    (∃ e rest, s.inbox = e :: rest ∧ (s.wasReset = true ∨ e = .reset) ∧
      eventResult e { s with inbox := rest } = .next t) := by
  unfold step nextEvent at h
  split at h
  · next hi =>
    split at h
    · next hw => exact .inl ⟨hi, hw, by simpa [eq_comm] using h⟩
    · cases h
  · next e rest hi =>
    split at h
    · next hw => exact .inr ⟨e, rest, hi, hw, h⟩
    · cases h

/-- Which register reads another value after a HostWrite that is not to CMD (R52, R74). -/
theorem readReg_writeReg_of_ne {r q : Reg} (v : Word) (s : State) (h : q ≠ r) :
    readReg (writeReg r v s) q = readReg s q := by
  cases r <;> cases q <;> simp_all [writeReg, readReg, statusWord, termShown]
  all_goals
    rename_i i j
    rw [Vector.getElem_set_ne]
    omega

end Sys2Proof.Machine
end

