-- ==== Sys2Proof/Laws/Shape.lean ====
section
/-! SUPPORT. What acceptance can do, and that the parts of an iteration keep the widths of the working registers. -/

namespace Sys2Proof.Machine

/-- The limbs of a width that names an instantiation are the operand limbs L1 of that instantiation (R12, R94). -/
theorem widthLimbs_of_instOfWidth {w : Width} {i : Inst} (h : instOfWidth w = some i) : widthLimbs w = instL1 i := by
  cases w <;> simp [instOfWidth] at h <;> subst h <;> rfl

/-- The widths a `reduce` accepts are those that name an instantiation (R94, R12). -/
theorem namesInstantiation_iff (w : Width) : w.namesInstantiation = true ↔ ∃ i, instOfWidth w = some i := by
  cases w <;> simp [Width.namesInstantiation, instOfWidth]

/-- What the acceptance of a reduce can do: refuse the width, start the engine, or find k not below n (R98, R172). -/
theorem acceptReduce_cases (w : Width) (budget : Word) (s : State) :
    (instOfWidth w = none ∧ acceptReduce w budget s = raiseFault .illegalWsel s) ∨
    (∃ i, instOfWidth w = some i ∧ uval (operandA w s) < uval (operandB w s) ∧
      acceptReduce w budget s =
        { s with st := .busy, term := .none, eng := initEngine i (operandA w s) (operandB w s) budget s.eng }) ∨
    (∃ i, instOfWidth w = some i ∧ uval (operandB w s) ≤ uval (operandA w s) ∧
      acceptReduce w budget s = raiseFault .kGeN s) := by
  unfold acceptReduce lessThan
  cases hi : instOfWidth w with
  | none => exact .inl ⟨rfl, rfl⟩
  | some i =>
    by_cases h : uval (operandA w s) < uval (operandB w s)
    · exact .inr (.inl ⟨i, rfl, h, by simp [h]⟩)
    · exact .inr (.inr ⟨i, rfl, by omega, by simp [h]⟩)

/-- Part 1 keeps the widths of the working registers (R178). -/
theorem orderVectors_shaped {e : Engine} (h : e.Shaped) : (orderVectors e).Shaped := by
  obtain ⟨h1, h2, h3, h4, h5, h6, h7, h8, h9⟩ := h
  rcases orderVectors_cases e with ⟨-, he⟩ | ⟨-, he⟩ <;> rw [he]
  · exact ⟨h1, h2, h3, h4, h5, h6, h7, h8, h9⟩
  · exact ⟨h3, h4, h1, h2, h6, h5, h7, h8, h9⟩

/-- Part 4 keeps the widths of the working registers (R181, R182). -/
theorem reduceVector_shaped {e : Engine} (h : e.Shaped) : (reduceVector e).Shaped := by
  obtain ⟨h1, h2, h3, h4, h5, h6, h7, h8, h9⟩ := h
  have hg : gramLimbs (reduceVector e) = gramLimbs e := by simp [gramLimbs]
  constructor <;> simp_all

/-- The shrink leaves Gram values of L2 limbs (R185). -/
theorem shrink_shaped {e : Engine} (h : e.Shaped) (hl : e.lstate = .p1) : (shrink (instL2 e.inst) e).Shaped := by
  have ho := instL_order e.inst
  have hg : gramLimbs e = instL3 e.inst := by simp [gramLimbs, hl]
  have hg2 : gramLimbs (shrink (instL2 e.inst) e) = instL2 e.inst := by simp [gramLimbs, shrink]
  obtain ⟨h1, h2, h3, h4, h5, h6, h7, h8, h9⟩ := h
  constructor <;> (try rw [hg2]) <;> simp_all [shrink] <;> omega

end Sys2Proof.Machine
end

