-- ==== Sys2Proof/Laws/ExactRun.lean ====
section
/-! SUPPORT. What one step of the exact vectors can do, beside what the registers do (spec/42_lattice_reduction.md R192). -/

namespace Sys2Proof.Machine

/-- Part 1 leaves both the registers and the exact vectors alone, or exchanges both (R178). -/
theorem exactOrder_cases (e : Engine) (g : ExactVectors) :
    (orderVectors e = e ∧ exactOrder e g = g) ∨
    (orderVectors e = { e with u0 := e.v0, v0 := e.u0, u1 := e.v1, v1 := e.u1, nu := e.nv, nv := e.nu } ∧
      exactOrder e g = { ux := g.vx, uy := g.vy, vx := g.ux, vy := g.uy }) := by
  unfold exactOrder
  rcases orderVectors_cases e with ⟨h, he⟩ | ⟨h, he⟩
  · exact .inl ⟨he, if_neg (by omega)⟩
  · exact .inr ⟨he, if_pos h⟩

/-- Part 4 takes one branch for the registers and the exact vectors alike, with one shift (R181, R182). -/
theorem exactReduce_cases (e : Engine) (g : ExactVectors) :
    (reduceVector e = subtractStep (shiftAmount e) e ∧
      exactReduce e g =
        { g with ux := g.ux - g.vx * 2 ^ shiftAmount e, uy := g.uy - g.vy * 2 ^ shiftAmount e }) ∨
    (reduceVector e = addStep (shiftAmount e) e ∧
      exactReduce e g =
        { g with ux := g.ux + g.vx * 2 ^ shiftAmount e, uy := g.uy + g.vy * 2 ^ shiftAmount e }) := by
  have hn := isNegative_iff_sval e.sp
  unfold exactReduce
  rcases reduceVector_cases e with ⟨hc, he⟩ | ⟨⟨hf, hs⟩, he⟩
  · refine .inl ⟨he, if_pos (hc.imp id fun h => ?_)⟩
    by_contra hlt
    rw [hn.mpr (by omega)] at h
    cases h
  · refine .inr ⟨he, if_neg ?_⟩
    have := hn.mp hs
    simp [hf]
    omega

/-- A phase-1 iteration reduces u exactly when the exact vectors come to part 4 (R184). -/
theorem comesToPartFour_p1 {e : Engine} (h : e.lstate = .p1) :
    comesToPartFour e = (!budgetMet e && !fitsBelow e.nu (instL2 e.inst)) := by
  simp [comesToPartFour, h]

/-- A phase-2 iteration reduces u exactly when the exact vectors come to part 4 (R186, R188). -/
theorem comesToPartFour_p2 {e : Engine} (h : e.lstate = .p2) :
    comesToPartFour e = true ↔ budgetMet e = false ∧ ∃ e2, guardStep e = .goesOn e2 := by
  unfold comesToPartFour
  rw [h]
  cases guardStep e <;> simp

/-- An idle engine leaves the exact vectors alone. -/
theorem exactStep_idle {e : Engine} (g : ExactVectors) (h : e.lstate = .idle) : exactStep e g = g := by
  simp [exactStep, h]

end Sys2Proof.Machine
end

