-- ==== Sys2Proof/Laws/PerInstr.lean ====
section
/-! SUPPORT. Statements for all instructions, made per instruction. -/

namespace Sys2Proof.Laws.EncodeReserved

/-- The word of a command has its reserved fields RSV1 and RSV0 at 0, and it matches its own row of the opcode map
(spec/30_encoding.md R91, R96). -/
def Statement (i : Instr) : Prop :=
  rsv1Field (encode i) = 0 ∧ rsv0Field (encode i) = 0 ∧ encode i &&& (opcodeRow i).2 = (opcodeRow i).1

theorem addcarry : Statement .addcarry := by unfold Statement; decide
theorem subborrow : Statement .subborrow := by unfold Statement; decide
theorem umul : Statement .umul := by unfold Statement; decide
theorem umulAdd : Statement .umulAdd := by unfold Statement; decide
theorem umulAdd2 : Statement .umulAdd2 := by unfold Statement; decide
theorem signMask : Statement .signMask := by unfold Statement; decide
theorem leadingZeroCount : Statement .leadingZeroCount := by unfold Statement; decide
theorem lessThan (w : Width) : Statement (.lessThan w) := by unfold Statement; cases w <;> decide
theorem swap (w : Width) : Statement (.swap w) := by unfold Statement; cases w <;> decide
theorem bitLength (w : Width) : Statement (.bitLength w) := by unfold Statement; cases w <;> decide
theorem fitsBelow (w : Width) : Statement (.fitsBelow w) := by unfold Statement; cases w <;> decide
theorem isNegative (w : Width) : Statement (.isNegative w) := by unfold Statement; cases w <;> decide
theorem addShifted (w : Width) : Statement (.addShifted w) := by unfold Statement; cases w <;> decide
theorem subShifted (w : Width) : Statement (.subShifted w) := by unfold Statement; cases w <;> decide
theorem reduce (w : Width) : Statement (.reduce w) := by unfold Statement; cases w <;> decide
theorem reduce254 (w : Width) : Statement (.reduce254 w) := by unfold Statement; cases w <;> decide

end Sys2Proof.Laws.EncodeReserved
end

