-- ==== Sys2Proof/Tests/Slice0.lean ====
section
/-! SUPPORT. Tests on small states, with expected values from spec/95_test_vectors.md, and for each statement with hypotheses
a witness that meets them. -/

namespace Sys2Proof.Machine.Tests

/-! ### Helpers -/

/-- The word operands. -/
def words (x y z1 z2 : Word) (c : Bit) : State :=
  { State.reset with xw := x, yw := y, z1w := z1, z2w := z2, cin := c }

/-- The limb-array operands and S. -/
def arrays (a b : Limbs) (s : Word) : State :=
  { State.reset with a := storeLow State.reset.a a, b := storeLow State.reset.b b, sReg := s }

/-- The state a command leaves. -/
def after (i : Instr) (s : State) : State :=
  match exec i s with
  | .next t => t
  | .fault _ | .refused _ => s

/-- The state a step leaves. -/
def stepped (s : State) : State :=
  match step s with
  | .next t => t
  | .fault _ | .refused _ => s

/-- STATUS after the write of a word to CMD right after reset. -/
def statusAfter (w : Word) : Word := statusWord (stepped (State.reset.withFetchWord 32 w.toNat))

/-- An engine at instantiation 256, its coordinates and Gram values given as integers. -/
def engineAt (gram : Nat) (p : LState) (first : Bool) (budget : Word) (u0 u1 v0 v1 nu nv sp : Int) : Engine :=
  { Engine.reset with
    u0 := limbsOf 4 u0
    u1 := limbsOf 4 u1
    v0 := limbsOf 4 v0
    v1 := limbsOf 4 v1
    nu := limbsOf gram nu
    nv := limbsOf gram nv
    sp := limbsOf gram sp
    lstate := p
    first := first
    maxbl := budget }

/-- A block whose engine is running. -/
def running (e : Engine) : State := { State.reset with st := .busy, eng := e }

/-! ### Well-formedness: the terms no word stands for are refused (R94) -/

theorem test_wellFormed_refuses_reduce_128 : (Instr.reduce .w128).wellFormed = false := by decide
theorem test_wellFormed_refuses_reduce_640 : (Instr.reduce .w640).wellFormed = false := by decide
theorem test_wellFormed_refuses_reduce254_320 : (Instr.reduce254 .w320).wellFormed = false := by decide
theorem test_wellFormed_accepts_reduce_ends :
    (Instr.reduce .w256).wellFormed = true ∧ (Instr.reduce .w512).wellFormed = true := by decide

/-! ### Decoding: words from R96 and R94, and section C of 95_test_vectors.md -/

theorem test_decode_addcarry : decode 0x00000000 = .cmd .addcarry := by decide
theorem test_decode_subborrow : decode 0x00000001 = .cmd .subborrow := by decide
theorem test_decode_umul : decode 0x00000002 = .cmd .umul := by decide
theorem test_decode_umul_add : decode 0x00000003 = .cmd .umulAdd := by decide
theorem test_decode_umul_add2 : decode 0x00000004 = .cmd .umulAdd2 := by decide
theorem test_decode_sign_mask : decode 0x00000005 = .cmd .signMask := by decide
theorem test_decode_leading_zero_count : decode 0x00000006 = .cmd .leadingZeroCount := by decide
theorem test_decode_less_than : decode 0x00000A10 = .cmd (.lessThan .w1024) := by decide
theorem test_decode_swap : decode 0x00000011 = .cmd (.swap .w128) := by decide
theorem test_decode_bit_length : decode 0x00000112 = .cmd (.bitLength .w192) := by decide
theorem test_decode_fits_below : decode 0x00000313 = .cmd (.fitsBelow .w320) := by decide
theorem test_decode_is_negative : decode 0x00000714 = .cmd (.isNegative .w640) := by decide
theorem test_decode_add_shifted : decode 0x00000215 = .cmd (.addShifted .w256) := by decide
theorem test_decode_sub_shifted : decode 0x00000916 = .cmd (.subShifted .w896) := by decide
theorem test_decode_reduce : decode 0x00000620 = .cmd (.reduce .w512) := by decide
theorem test_decode_reduce254 : decode 0x00000221 = .cmd (.reduce254 .w256) := by decide

theorem test_decode_wsel_codes :
    [0x010, 0x110, 0x210, 0x310, 0x410, 0x510, 0x610, 0x710, 0x810, 0x910, 0xA10].map decode =
      [.w128, .w192, .w256, .w320, .w384, .w448, .w512, .w640, .w768, .w896, .w1024].map
        fun w => .cmd (.lessThan w) := by decide

theorem test_decode_illegal_cmd :
    [0x7, 0x100, 0x17, 0xF17, 0x22, 0x30, 0x40, 0x80, 0x1000, 0x80000000, 0xFFFFFFFF].map decode =
      List.replicate 11 (.illegal .illegalCmd) := by decide

theorem test_decode_illegal_wsel :
    [0xB10, 0xF16, 0xB13, 0x020, 0x120, 0x720, 0xF20, 0x121, 0x321].map decode =
      List.replicate 9 (.illegal .illegalWsel) := by decide

theorem test_encode_script_example : encode (.addShifted .w256) = 0x00000215 := by decide

theorem test_table_word : decodeTableWord 32 0x221 = some (.reduce254 .w256) := by decide

/-! ### The widening arithmetic unit: section A -/

theorem test_addcarry_carries :
    (after .addcarry (words 0xFFFFFFFF 0xFFFFFFFF 0 0 1)).rlo = 0xFFFFFFFF ∧
    (after .addcarry (words 0xFFFFFFFF 0xFFFFFFFF 0 0 1)).cout = 1 := by decide
theorem test_addcarry_plain :
    (after .addcarry (words 0x12345678 0x9ABCDEF0 0 0 1)).rlo = 0xACF13569 ∧
    (after .addcarry (words 0x12345678 0x9ABCDEF0 0 0 1)).cout = 0 := by decide
theorem test_subborrow_borrows :
    (after .subborrow (words 0x12345678 0x9ABCDEF0 0 0 1)).rlo = 0x77777787 ∧
    (after .subborrow (words 0x12345678 0x9ABCDEF0 0 0 1)).cout = 1 := by decide
theorem test_subborrow_plain :
    (after .subborrow (words 7 5 0 0 1)).rlo = 1 ∧ (after .subborrow (words 7 5 0 0 1)).cout = 0 := by decide
theorem test_umul :
    (after .umul (words 0x12345678 0x9ABCDEF0 5 5 1)).rlo = 0x242D2080 ∧
    (after .umul (words 0x12345678 0x9ABCDEF0 5 5 1)).rhi = 0x0B00EA4E := by decide
theorem test_umul_add :
    (after .umulAdd (words 0x12345678 0x9ABCDEF0 0xDEADBEEF 5 0)).rlo = 0x02DADF6F ∧
    (after .umulAdd (words 0x12345678 0x9ABCDEF0 0xDEADBEEF 5 0)).rhi = 0x0B00EA4F := by decide
theorem test_umul_add2 :
    (after .umulAdd2 (words 0x12345678 0x9ABCDEF0 0xDEADBEEF 0xCAFEBABE 0)).rlo = 0xCDD99A2D ∧
    (after .umulAdd2 (words 0x12345678 0x9ABCDEF0 0xDEADBEEF 0xCAFEBABE 0)).rhi = 0x0B00EA4F := by decide
theorem test_umul_add2_largest :
    (after .umulAdd2 (words 0xFFFFFFFF 0xFFFFFFFF 0xFFFFFFFF 0xFFFFFFFF 0)).rlo = 0xFFFFFFFF ∧
    (after .umulAdd2 (words 0xFFFFFFFF 0xFFFFFFFF 0xFFFFFFFF 0xFFFFFFFF 0)).rhi = 0xFFFFFFFF := by decide
theorem test_sign_mask :
    (after .signMask (words 0x80000000 0 0 0 0)).rlo = 0xFFFFFFFF ∧
    (after .signMask (words 0x7FFFFFFF 0 0 0 0)).rlo = 0 := by decide
theorem test_leading_zero_count :
    [0, 1, 3, 0x8000, 0x7FFFFFFF, 0x80000000].map (fun x => (after .leadingZeroCount (words x 0 0 0 0)).rn) =
      [32, 31, 30, 16, 1, 0] := by decide
theorem test_leading_zeros_by_halving :
    [0, 1, 3, 0x8000, 0x7FFFFFFF, 0x80000000].map leadingZerosByHalving = [32, 31, 30, 16, 1, 0] := by decide

/-! ### The fixed-width integer unit: section B -/

theorem test_less_than_is_unsigned :
    (after (.lessThan .w128) (arrays [0, 0, 0, 0] [0xFFFFFFFF, 0xFFFFFFFF, 0xFFFFFFFF, 0xFFFFFFFF] 0)).cout = 1 ∧
    (after (.lessThan .w128) (arrays [7, 0, 0, 0] [7, 0, 0, 0] 0)).cout = 0 := by decide
theorem test_swap_leaves_upper_limbs :
    (after (.swap .w128) (arrays [1, 2, 3, 4, 0xAAAAAAAA] [5, 6, 7, 8, 0xBBBBBBBB] 0)).a.toList.take 6 =
      [5, 6, 7, 8, 0xAAAAAAAA, 0] ∧
    (after (.swap .w128) (arrays [1, 2, 3, 4, 0xAAAAAAAA] [5, 6, 7, 8, 0xBBBBBBBB] 0)).b.toList.take 6 =
      [1, 2, 3, 4, 0xBBBBBBBB, 0] := by decide
theorem test_bit_length_of_negatives :
    (after (.bitLength .w128) (arrays [0, 0xFFFFFFFE + 1, 0xFFFFFFFF, 0xFFFFFFFF] [] 0)).rn = 32 ∧
    (after (.bitLength .w128) (arrays [0, 0, 0, 0x80000000] [] 0)).rn = 127 := by decide
theorem test_bit_length_reads_its_width :
    (after (.bitLength .w128) (arrays (List.replicate 4 0xFFFFFFFF) [] 0)).rn = 0 ∧
    (after (.bitLength .w192) (arrays (List.replicate 4 0xFFFFFFFF) [] 0)).rn = 128 := by decide
theorem test_fits_below :
    (after (.fitsBelow .w128) (arrays [0xFFFFFFFF, 0x7FFFFFFF, 0, 0] [] 2)).cout = 1 ∧
    (after (.fitsBelow .w128) (arrays [0, 0x80000000, 0, 0] [] 2)).cout = 0 := by decide
theorem test_fits_below_bad_operand :
    statusWord (after (.fitsBelow .w128) (arrays [] [] 0)) = 0x33 ∧
    statusWord (after (.fitsBelow .w128) (arrays [] [] 5)) = 0x33 := by decide
theorem test_is_negative :
    (after (.isNegative .w128) (arrays [0, 0, 0, 0x80000000, 0, 0] [] 0)).cout = 1 ∧
    (after (.isNegative .w192) (arrays [0, 0, 0, 0x80000000, 0, 0] [] 0)).cout = 0 := by decide
theorem test_add_shifted :
    lowLimbs (after (.addShifted .w128) (arrays [0x89ABCDEF, 0x01234567] [0x76543210, 0xFEDCBA98] 40)).a 5 =
      [0x89ABCDEF, 0x55555567, 0xDCBA9876, 0x000000FE, 0] := by decide
theorem test_add_shifted_past_width :
    lowLimbs (after (.addShifted .w128) (arrays [7] [9] 0xFFFFFFFF)).a 4 = [7, 0, 0, 0] := by decide
theorem test_sub_shifted :
    lowLimbs (after (.subShifted .w128) (arrays [0x89ABCDEF, 0x01234567] [0x76543210, 0xFEDCBA98] 40)).a 5 =
      [0x89ABCDEF, 0xACF13567, 0x23456789, 0xFFFFFF01, 0] := by decide
theorem test_sub_shifted_of_negative :
    lowLimbs (after (.subShifted .w128)
      (arrays [100] [0xFFFFFFFD, 0xFFFFFFFF, 0xFFFFFFFF, 0xFFFFFFFF] 2)).a 4 = [0x70, 0, 0, 0] := by decide

theorem test_add_shifted_by_limbs :
    addShiftedByLimbs [0x89ABCDEF, 0x01234567, 0, 0] [0x76543210, 0xFEDCBA98, 0, 0] 40 =
      [0x89ABCDEF, 0x55555567, 0xDCBA9876, 0x000000FE] := by decide
theorem test_schoolbook :
    schoolbook [0xFFFFFFFF, 0xFFFFFFFF] [0xFFFFFFFF, 0xFFFFFFFF] = [1, 0, 0xFFFFFFFE, 0xFFFFFFFF] := by decide

/-! ### The lattice reduction engine: section E, one step each -/

/-- E1: acceptance. -/
theorem test_reduce_accepts :
    statusWord (after (.reduce .w256) (arrays [5] [17] 4)) = 1 ∧
    (after (.reduce .w256) (arrays [5] [17] 4)).eng = engineAt 16 .p1 true 4 17 0 5 1 289 26 85 := by decide
/-- 60_exceptions.md R221, code 4, at k = n. -/
theorem test_reduce_k_ge_n : statusWord (after (.reduce .w256) (arrays [17] [17] 4)) = 0x43 := by decide
/-- R199: the budget is 254, not S. -/
theorem test_reduce254_accepts :
    (after (.reduce254 .w256) (arrays [5] [17] 4)).eng = engineAt 16 .p1 true 254 17 0 5 1 289 26 85 := by decide
/-- E1 step 1: 289 fits, so the run leaves for phase 2, at every admissible N2. -/
theorem test_phase1_shrinks :
    [10, 12, 14].map (fun l => phase1 l (engineAt 16 .p1 true 4 17 0 5 1 289 26 85)) =
      [10, 12, 14].map (fun l => .goesOn (engineAt l .p2 true 4 17 0 5 1 289 26 85)) := by decide
/-- E1 step 2: subtracting branch at the first iteration, shift 2. -/
theorem test_phase2_subtracts :
    phase2 (engineAt 12 .p2 true 4 17 0 5 1 289 26 85) =
      .goesOn { engineAt 12 .p2 false 4 (-3) (-4) 5 1 25 26 (-19) with prevbl := 7, prevv := true } := by decide
/-- E1 step 3: swap, then adding branch. -/
theorem test_phase2_swaps_and_adds :
    phase2 { engineAt 12 .p2 false 4 (-3) (-4) 5 1 25 26 (-19) with prevbl := 7, prevv := true } =
      .goesOn { engineAt 12 .p2 false 4 2 (-3) (-3) (-4) 13 25 6 with prevbl := 5, prevv := true } := by decide
/-- E1 step 4: swap, then BUDGET with (2, −3). -/
theorem test_phase2_meets_budget :
    phase2 { engineAt 12 .p2 false 4 2 (-3) (-3) (-4) 13 25 6 with prevbl := 5, prevv := true } =
      .finishes .budget { engineAt 12 .p2 false 4 (-3) (-4) 2 (-3) 25 13 6 with prevbl := 5, prevv := true } := by decide
/-- E1 steps 2 and 3, the exact vectors: (−3, −4) by subtracting, then swap and (2, −3) by adding. -/
theorem test_exact_vectors_of_step_2 :
    exactStep (engineAt 12 .p2 true 4 17 0 5 1 289 26 85) (exactStart 5 17) = ⟨-3, -4, 5, 1⟩ := by decide
theorem test_exact_vectors_of_step_3 :
    exactStep { engineAt 12 .p2 false 4 (-3) (-4) 5 1 25 26 (-19) with prevbl := 7, prevv := true } ⟨-3, -4, 5, 1⟩ =
      ⟨2, -3, -3, -4⟩ := by decide +kernel
/-- E2 step 8: the fourth equality. -/
theorem test_guard_counts_to_four :
    statusWord (engineStep (running { engineAt 12 .p2 false 3 (-3) (-4) 2 (-3) 25 13 6 with
      prevbl := 3, prevv := true, stallc := 3 })) = 0x0000000A := by decide
/-- E7 step 4: an increase ends the run at once, with (1, −2). -/
theorem test_guard_stops_at_increase :
    (engineStep (running { engineAt 12 .p2 false 2 2 3 1 (-2) 13 5 (-4) with prevbl := 1, prevv := true })).c1 =
      storeLow State.reset.c1 (limbsOf 4 (-2)) := by decide
/-- E8 step 1, coordinates: truncated to 128 bits. -/
theorem test_phase1_coordinates_wrap :
    (match phase1 12 (initEngine .i256 [0x01234567, 0, 0, 0, 0, 0xDEADBEEF, 0, 0] [0x85, 0, 0, 0, 0, 0, 1, 0] 376
        Engine.reset) with
      | .goesOn e => (e.u0, e.u1)
      | .finishes _ _ => ([], [])) = (limbsOf 4 (-0x12344E2), limbsOf 4 (-1)) := by decide
/-- E3: BUDGET at the first step, limbs above N0 kept (R36). -/
theorem test_finish_keeps_upper_limbs :
    (engineStep { running (engineAt 16 .p1 true 5 17 0 5 1 289 26 85) with c0 := Vector.replicate 8 9 }).c0.toList =
      [5, 0, 0, 0, 9, 9, 9, 9] := by decide

/-! ### Accesses and faults: sections C and D -/

theorem test_status_after_words :
    [0, 6, 7, 0x100, 0x12, 0xA10, 0xB10, 0xF17, 0xB13, 0x13, 0x220, 0x321].map statusAfter =
      [2, 2, 0x13, 0x13, 2, 2, 0x23, 0x13, 0x23, 0x33, 0x43, 0x23] := by decide
theorem test_command_while_busy :
    statusWord (stepped ((running (engineAt 16 .p1 true 4 17 0 5 1 289 26 85)).withFetchWord 32 0xFFFFFFFF)) = 0x53 := by
  decide
theorem test_reset_leaves_fault :
    statusWord (stepped { State.reset with st := .fault, fcode := some .badOperand, inbox := [.reset] }) = 0 := by decide
theorem test_cin_keeps_one_bit :
    readReg (stepped { State.reset with inbox := [.write .cin 3] }) .cin = 1 := by decide
theorem test_write_to_result_is_ignored :
    stepped { State.reset with rlo := 3, inbox := [.write .rlo 99] } = { State.reset with rlo := 3 } := by decide
theorem test_movf :
    (stepped (stepped { State.reset with cout := 1, inbox := [.movf] })).cin = 1 := by decide
/-- U19: a second reduce, running after one that ended by STALL, reads BUSY with the first one's TERM. -/
theorem test_term_is_stale_while_busy :
    let s := { arrays [5] [17] 4 with st := .done, term := .stall, lastTerm := .stall }
    (after (.reduce .w256) s).term = .none ∧ statusWord (after (.reduce .w256) s) = 0x00000009 := by decide
theorem test_wait_polls_while_busy :
    (stepped { running (engineAt 16 .p1 true 5 17 0 5 1 289 26 85) with inbox := [.wait] }).inbox = [.engine, .wait] := by
  decide
theorem test_script_line_of_negative_value :
    expandLine (.wrl .a (-3) 2) = [.write (.a 0) 0xFFFFFFFD, .write (.a 1) 0xFFFFFFFF] := by decide

/-! ### Witnesses: for each statement with hypotheses, operands that meet them all together -/

/-- A running block in phase 1: E1 with a budget. -/
def phase1State (budget : Word) : State :=
  running (initEngine .i256 (natLimbs 8 5) (natLimbs 8 17) budget Engine.reset)

/-- A running block in phase 2, with Gram values of the width the implementation has. -/
def phase2State : State :=
  running { Engine.reset with
    nu := List.replicate (instL2 .i256) 0
    nv := List.replicate (instL2 .i256) 0
    sp := List.replicate (instL2 .i256) 0
    lstate := .p2 }

/-- A block in FAULT. -/
def faultState : State := { State.reset with st := .fault, fcode := some .badOperand }

/-- A block that has completed a command. -/
def doneState : State := { State.reset with st := .done, rn := 7 }

theorem doneState_coherent : doneState.Coherent := by
  constructor <;> simp [doneState, State.reset, Engine.reset]

theorem phase1State_coherent (budget : Word) : (phase1State budget).Coherent := by
  refine ⟨by simp [phase1State, running, initEngine], by simp [phase1State, running, State.reset], ?_, ?_, ?_, ?_, fun _ => ?_⟩
  · simp [phase1State, running, State.reset]
  · simp [phase1State, running, State.reset]
  · simp [phase1State, running, initEngine]
  · simp [phase1State, running, initEngine, Engine.reset]
  · constructor <;> simp [phase1State, running, initEngine, gramLimbs] <;> decide

theorem phase2State_coherent : phase2State.Coherent := by
  refine ⟨by simp [phase2State, running], by simp [phase2State, running, State.reset], ?_, ?_, ?_, ?_, fun _ => ?_⟩
  · simp [phase2State, running, State.reset]
  · simp [phase2State, running, State.reset]
  · simp [phase2State, running, Engine.reset]
  · simp [phase2State, running, Engine.reset]
  · constructor <;> simp [phase2State, running, Engine.reset, gramLimbs, instL0]

theorem phase1State_represents (budget : Word) : (phase1State budget).eng.Represents 5 17 1 0 0 1 := by
  constructor <;> (try simp only [phase1State, running, initEngine]) <;> decide +kernel

theorem test_witness_DecodeIsInverseOfEncode :
    decode 0x620 = .cmd (.reduce .w512) ∧ (Instr.reduce .w512).wellFormed = true ∧
    encode (.reduce .w512) = 0x620 := by decide

theorem test_witness_DecodedWordMatchesItsRow : decode 0xA16 = .cmd (.subShifted .w1024) := by decide

theorem test_witness_IllegalWordsByCause :
    decode 0x1000 = .illegal .illegalCmd ∧ decode 0x720 = .illegal .illegalWsel ∧ State.reset.st = .idle ∧
    (after .umul State.reset).st = .done := by decide

theorem test_witness_StepKeepsStateCoherent :
    (∃ t, doneState.Coherent ∧ step doneState = .next t) ∧
    (∃ t, (phase1State 5).Coherent ∧ step (phase1State 5) = .next t ∧ t.st = .done) ∧
    (∃ t, phase2State.Coherent ∧ step phase2State = .next t) :=
  ⟨⟨_, doneState_coherent, rfl⟩, ⟨_, phase1State_coherent 5, rfl, by decide⟩, ⟨_, phase2State_coherent, rfl⟩⟩

theorem test_witness_ResetEventRestoresControlState :
    ({ faultState with inbox := [.reset, .engine] } : State).inbox = .reset :: [.engine] := rfl

theorem test_witness_StepAlwaysAnswersAfterReset :
    State.reset.wasReset = true ∧ State.reset.eng.lstate = .idle ∧ State.reset.inbox = [] ∧
    ({ doneState with inbox := [.engine] } : State).inbox = .engine :: [] ∧
    stepped { doneState with inbox := [.engine] } = doneState ∧
    ({ State.reset with wasReset := false } : State).wasReset = false ∧
    ∀ rest, ({ State.reset with wasReset := false } : State).inbox ≠ .reset :: rest := by
  refine ⟨rfl, rfl, rfl, rfl, by decide, rfl, ?_⟩
  intro rest h
  cases h

theorem test_witness_LeadingZeroCountFindsHighestBit :
    (words 0 0 0 0 0).xw = 0 ∧ (words 1 0 0 0 0).xw ≠ 0 ∧ (words 0x80000000 0 0 0 0).xw ≠ 0 := by decide

theorem test_witness_CarryAndBorrowChainsAreExact :
    ([0xFFFFFFFF, 0xFFFFFFFF] : Limbs).length = ([1, 0] : Limbs).length ∧
    (addChain [0xFFFFFFFF, 0xFFFFFFFF] [1, 0] 0).2 = 1 ∧ (subChain [0, 0] [1, 0] 0).2 = 1 := by decide

theorem test_witness_BorrowChainDecidesLessThan :
    ([0, 1] : Limbs).length = ([1, 1] : Limbs).length ∧ lessThanByChain [0, 1] [1, 1] = true ∧
    lessThanByChain [1, 1] [1, 1] = false := by decide

theorem test_witness_LimbLoopIsShiftedAddAndSubtract :
    ([1, 2] : Limbs).length = ([3, 4] : Limbs).length ∧
    addShiftedByLimbs [1, 2] [3, 4] 63 = addShifted [1, 2] [3, 4] 63 ∧
    addShiftedByLimbs [1, 2] [3, 4] 64 = addShifted [1, 2] [3, 4] 64 := by decide

theorem test_witness_SchoolbookLoopIsProduct : ([1, 2] : Limbs).length = ([3, 4] : Limbs).length := by decide

theorem test_witness_SwapExchangesLowLimbs : (3 : Fin 32).val < widthLimbs .w128 ∧ ¬(4 : Fin 32).val < widthLimbs .w128 := by
  decide

/-- The bound at its four corners: 0 and L + 1 fault, 1 and L do not, and no S is under both clauses. -/
theorem test_witness_FitsBelowTestsBoundOrFaults :
    (arrays [] [] 0).sReg.toNat = 0 ∧ widthLimbs .w128 < (arrays [] [] 5).sReg.toNat ∧
    (0 < (arrays [] [] 1).sReg.toNat ∧ (arrays [] [] 1).sReg.toNat ≤ widthLimbs .w128) ∧
    (0 < (arrays [] [] 4).sReg.toNat ∧ (arrays [] [] 4).sReg.toNat ≤ widthLimbs .w128) ∧
    ∀ b : Fin 40, ¬((b.val = 0 ∨ widthLimbs .w128 < b.val) ∧ 0 < b.val ∧ b.val ≤ widthLimbs .w128) := by decide

theorem test_witness_AddShiftedAddsModuloWidth :
    widthLimbs .w128 ≤ (4 : Fin 32).val ∧ widthLimbs .w896 ≤ (31 : Fin 32).val := by decide

theorem test_witness_SubShiftedSubtractsModuloWidth :
    widthLimbs .w128 ≤ (4 : Fin 32).val ∧ widthLimbs .w896 ≤ (31 : Fin 32).val := by decide

theorem test_witness_TruncationCommutesWithShiftedArithmetic :
    ([1, 2] : Limbs).length = ([3, 4] : Limbs).length ∧ 1 ≤ ([1, 2] : Limbs).length ∧
    (addShifted [1, 2] [3, 4] 40).take 1 = addShifted [1] [3] 40 := by decide

theorem test_witness_BitLengthAndFitsBelowAgree :
    0 < 1 ∧ 1 ≤ ([0x7FFFFFFF, 0] : Limbs).length ∧ 2 ≤ ([0x7FFFFFFF, 0] : Limbs).length ∧
    fitsBelow [0x7FFFFFFF, 0] 1 = true ∧ fitsBelow [0x80000000, 0] 1 = false ∧
    sval [0, 0] = 0 ∧ sval [0xFFFFFFFF, 0xFFFFFFFF] = -1 := by decide

/-- k = n − 1 is accepted, k = n and k = n = 0 are not. -/
theorem test_witness_ReduceStartsOrFaults :
    instOfWidth .w256 = some .i256 ∧ instOfWidth .w512 = some .i512 ∧
    uval (lowLimbs (arrays [16] [17] 0).a (instL1 .i256)) < uval (lowLimbs (arrays [16] [17] 0).b (instL1 .i256)) ∧
    uval (lowLimbs (arrays [17] [17] 0).b (instL1 .i256)) ≤ uval (lowLimbs (arrays [17] [17] 0).a (instL1 .i256)) ∧
    uval (lowLimbs (arrays [] [] 0).b (instL1 .i512)) ≤ uval (lowLimbs (arrays [] [] 0).a (instL1 .i512)) := by decide

theorem test_witness_Reduce254StartsWithFixedBudget :
    uval (lowLimbs (arrays [16] [17] 0).a 8) < uval (lowLimbs (arrays [16] [17] 0).b 8) ∧
    uval (lowLimbs (arrays [17] [17] 0).b 8) ≤ uval (lowLimbs (arrays [17] [17] 0).a 8) := by decide

theorem test_witness_ReduceAtOtherWidthsFaults :
    (Instr.reduce .w192).wellFormed = false ∧ (Instr.reduce254 .w512).wellFormed = false := by decide

/-- The budget is met, the run shrinks, the run reduces: k = 5, n = 17 with budgets 5 and 4, and the run of R194. -/
theorem test_witness_PhaseOneStepFinishesShrinksOrReduces :
    let big := running (initEngine .i256 (natLimbs 8 0) (natLimbs 8 (2 ^ 255 - 19)) 0 Engine.reset)
    ((phase1State 5).Coherent ∧ (phase1State 5).eng.lstate = .p1 ∧
      bitLength (phase1State 5).eng.nv ≤ (phase1State 5).eng.maxbl.toNat) ∧
    ((phase1State 4).eng.maxbl.toNat < bitLength (phase1State 4).eng.nv ∧
      uval (phase1State 4).eng.nu < 2 ^ (32 * instL2 .i256 - 1)) ∧
    big.Coherent ∧ big.eng.lstate = .p1 ∧ ¬uval big.eng.nu < uval big.eng.nv ∧
    big.eng.maxbl.toNat < bitLength big.eng.nv ∧ 2 ^ (32 * instL2 .i256 - 1) ≤ uval big.eng.nu := by
  have hl : ∀ c, 10 ≤ chosenL2 .i256 c ∧ chosenL2 .i256 c ≤ 14 := by decide
  obtain ⟨h1, h2⟩ := hl (Config.n2Choice .i256)
  refine ⟨⟨phase1State_coherent 5, by decide, by decide⟩, ⟨by decide, ?_⟩, ?_, by decide, by decide, by decide, ?_⟩
  · exact lt_of_lt_of_le (show _ < 2 ^ 200 by decide)
      (Nat.pow_le_pow_right (by decide) (by unfold instL2; omega))
  · refine ⟨by simp [running, initEngine], by simp [running, State.reset], by simp [running, State.reset],
      by simp [running, State.reset], by simp [running, initEngine], by simp [running, initEngine, Engine.reset], fun _ => ?_⟩
    constructor <;> simp [running, initEngine, gramLimbs] <;> decide
  · exact (Nat.pow_le_pow_right (by decide) (show 32 * instL2 .i256 - 1 ≤ 447 by unfold instL2; omega)).trans
      (by decide +kernel)

/-- Both branches, at their boundary: sp = −1 without FIRST, sp = 0, and sp = −1 with FIRST. -/
theorem test_witness_PartFourUpdatesByTheBranchOfSp :
    let e := engineAt 12 .p2 false 4 1 0 0 1 9 4 (-1)
    let f := engineAt 12 .p2 false 4 1 0 0 1 9 4 0
    e.u0.length = e.v0.length ∧ e.u1.length = e.v1.length ∧ e.nu.length = e.nv.length ∧ e.nu.length = e.sp.length ∧
    f.u0.length = f.v0.length ∧ f.u1.length = f.v1.length ∧ f.nu.length = f.nv.length ∧ f.nu.length = f.sp.length ∧
    isNegative e.sp = true ∧ isNegative f.sp = false := by decide

/-- The clauses at their boundaries: a budget just met (nv = 13 has bit length 4), an increase by one, the fourth and the
third equality, a decrease by one, no previous value. The bit length of sp = 6 is 3. The vectors stand in order. -/
theorem test_witness_GuardEndsRunAtIncreaseOrFourthEquality :
    let e := engineAt 12 .p2 false 3 (-3) (-4) 2 (-3) 25 13 6
    let at' (p c : Nat) (v : Bool) : Engine := { e with prevbl := p, stallc := c, prevv := v }
    (running e).eng.lstate = .p2 ∧ ¬uval e.nu < uval e.nv ∧
    bitLength e.nv ≤ ({ e with maxbl := 4 } : Engine).maxbl.toNat ∧ e.maxbl.toNat < bitLength e.nv ∧
    ((at' 2 0 true).prevv = true ∧ (at' 2 0 true).prevbl < bitLength e.sp) ∧
    ((at' 3 3 true).prevbl = bitLength e.sp ∧ 3 ≤ (at' 3 3 true).stallc) ∧
    ((at' 3 2 true).prevbl = bitLength e.sp ∧ (at' 3 2 true).stallc < 3) ∧
    bitLength e.sp < (at' 4 3 true).prevbl ∧ (at' 3 3 false).prevv = false := by decide

theorem test_witness_ShrinkKeepsTheRunsAnswers :
    let e := engineAt 16 .p1 true 4 17 0 5 1 289 26 85
    e.lstate = .p1 ∧ 0 < 10 ∧ 10 ≤ e.nu.length ∧ e.nv.length = e.nu.length ∧
    phase1 10 e = .goesOn (shrink 10 (orderVectors e)) ∧ (shrink 10 (orderVectors e)).lstate = .p2 := by decide

theorem test_witness_EngineStepKeepsLatticeBasis :
    (phase1State 5).Coherent ∧ (phase1State 5).eng.lstate ≠ .idle ∧ (phase1State 5).eng.Represents 5 17 1 0 0 1 ∧
    (engineStep (phase1State 5)).st = .done :=
  ⟨phase1State_coherent 5, by decide, phase1State_represents 5, by decide⟩

/-- The exact-coordinate clauses are met too: the vector (5, 1) is far inside 128 bits. -/
theorem test_witness_FinishedReduceReturnsLatticeVector :
    ∃ t, instOfWidth .w256 = some .i256 ∧ exec (.reduce .w256) (arrays [5] [17] 5) = .next t ∧ t.st = .busy ∧
      (engineRun 1 t).st = .done ∧ exactRun 1 t (exactStart 5 17) = exactStart 5 17 ∧
      sval (lowLimbs (engineRun 1 t).c0 (instL0 .i256)) = 5 :=
  ⟨_, rfl, rfl, by decide, by decide, by decide, by decide⟩

theorem test_witness_TermTellsWhichExitEndedTheRun :
    ((phase1State 5).eng.lstate ≠ .idle ∧ (phase1State 5).st ≠ .done ∧ (engineStep (phase1State 5)).term = .budget ∧
      (engineStep (phase1State 5)).st = .done) ∧
    let s := running { engineAt 12 .p2 false 2 2 3 1 (-2) 13 5 (-4) with prevbl := 1, prevv := true }
    s.eng.lstate ≠ .idle ∧ s.st ≠ .done ∧ (engineStep s).term = .stall ∧ (engineStep s).st = .done := by decide

theorem test_witness_UnfinishedStepTouchesWorkingRegistersOnly :
    (engineStep (running (engineAt 12 .p2 true 4 17 0 5 1 289 26 85))).st = .busy := by decide

theorem test_witness_LargeBudgetFinishesAtFirstStep :
    let s := arrays [5] [17] 5
    instOfWidth .w256 = some .i256 ∧ uval (lowLimbs s.a (instL1 .i256)) < uval (lowLimbs s.b (instL1 .i256)) ∧
    bitLength (natLimbs (instL3 .i256) (uval (lowLimbs s.a (instL1 .i256)) ^ 2 + 1)) ≤ s.sReg.toNat ∧
    instL0 .i256 ≤ (4 : Fin 8).val := by decide

theorem test_witness_PhaseTwoAlwaysFinishes : phase2State.Coherent ∧ phase2State.eng.lstate = .p2 :=
  ⟨phase2State_coherent, rfl⟩

theorem test_witness_BudgetZeroRunNeverLeavesPhaseOne :
    let s := arrays [] (natLimbs 8 (2 ^ 255 - 19)) 0
    uval (lowLimbs s.a 8) = 0 ∧ uval (lowLimbs s.b 8) = 2 ^ 255 - 19 ∧ s.sReg = 0 := by decide

/-- Two states that agree on the operands and differ in RLO, C0 and an operand limb above the width. -/
theorem test_witness_ReduceOutcomeDependsOnItsOperandsAlone :
    let s1 := arrays [5] [17] 5
    let s2 := { s1 with rlo := 9, c0 := Vector.replicate 8 7, a := s1.a.set 8 1 }
    s1 ≠ s2 ∧ instOfWidth .w256 = some .i256 ∧
    lowLimbs s1.a (instL1 .i256) = lowLimbs s2.a (instL1 .i256) ∧
    lowLimbs s1.b (instL1 .i256) = lowLimbs s2.b (instL1 .i256) ∧ s1.sReg = s2.sReg ∧
    exec (.reduce .w256) s1 = .next (after (.reduce .w256) s1) ∧
    exec (.reduce .w256) s2 = .next (after (.reduce .w256) s2) ∧
    (after (.reduce .w256) s1).st = .busy ∧ (engineRun 1 (after (.reduce .w256) s1)).st = .done :=
  ⟨by decide, rfl, by decide, by decide, rfl, rfl, rfl, by decide, by decide⟩

theorem test_witness_StepRunsTheDecodedCommand :
    let s := State.reset.withFetchWord 32 0x215
    s.wasReset = true ∧ s.inbox = [.write .cmd 0x215] ∧ s.st = .idle ∧ decode 0x215 = .cmd (.addShifted .w256) ∧
    ({ phase1State 5 with inbox := [.engine] } : State).inbox = .engine :: [] ∧ (phase1State 5).wasReset = true ∧
    (phase1State 5).inbox = [] ∧ (stepped { phase1State 5 with inbox := [.engine] }).st = .done ∧
    (stepped (phase1State 5)).st = .done := by decide

theorem test_witness_CommandWriteByBlockState :
    ((phase1State 5).withFetchWord 32 0).st = .busy ∧ (faultState.withFetchWord 32 0).st = .fault ∧
    (State.reset.withFetchWord 32 0x40).st = .idle ∧ decode 0 = .cmd .addcarry ∧
    decode 0x40 = .illegal .illegalCmd ∧ (faultState.withFetchWord 32 0).inbox = [.write .cmd 0] := by decide

theorem test_witness_FaultingStepHasNoPartialEffect :
    ∃ t, step ((phase1State 5).withFetchWord 32 0) = .next t ∧ ((phase1State 5).withFetchWord 32 0).st ≠ .fault ∧
      t.st = .fault ∧ t.fcode = some .busyCmd :=
  ⟨_, rfl, by decide, by decide, by decide⟩

theorem test_witness_OnlyCommandWritesRaiseFaults :
    ∃ t, step (State.reset.withFetchWord 32 0x13) = .next t ∧ (State.reset.withFetchWord 32 0x13).st ≠ .fault ∧
      t.st = .fault :=
  ⟨_, rfl, by decide, by decide⟩

theorem faultState_coherent (i : List Event) : ({ faultState with inbox := i } : State).Coherent := by
  constructor <;> simp [faultState, State.reset, Engine.reset]

theorem test_witness_FaultLastsUntilReset :
    ∃ t, (faultState.withFetchWord 32 0).Coherent ∧ (faultState.withFetchWord 32 0).st = .fault ∧
      (∀ rest, (faultState.withFetchWord 32 0).inbox ≠ .reset :: rest) ∧ step (faultState.withFetchWord 32 0) = .next t := by
  refine ⟨_, faultState_coherent _, rfl, ?_, rfl⟩
  intro rest h
  cases h

theorem test_witness_HostReadChangesNoRegister :
    let s : State := { State.reset with inbox := [.read .xw] }
    s.wasReset = true ∧ s.inbox = .read .xw :: [] ∧ Reg.xw ≠ .cmd ∧
    (stepped { State.reset with c1 := State.reset.c1.set 7 9, inbox := [.read (.c1 7)] }).readLog = [9] := by decide

theorem test_witness_HostWriteLandsInOneRegister :
    let s : State := { State.reset with inbox := [.write (.a 31) 5] }
    s.wasReset = true ∧ s.inbox = .write (.a 31) 5 :: [] ∧ Reg.a 31 ≠ .cmd ∧ Reg.a 30 ≠ .a 31 := by decide

theorem test_witness_MovfCarriesCoutIntoCin :
    let s : State := { State.reset with cout := 1, inbox := [.movf] }
    s.wasReset = true ∧ s.inbox = .movf :: [] ∧
    ({ phase1State 5 with inbox := [.wait] } : State).inbox = .wait :: [] ∧ (phase1State 5).st = .busy ∧
    ({ State.reset with inbox := [.wait] } : State).inbox = .wait :: [] ∧ State.reset.st ≠ .busy := by decide

theorem test_witness_CommandsWriteOnlyTheirOwnRegisters :
    ∃ t, exec (.swap .w128) State.reset = .next t ∧ writesReg (.swap .w128) (.a 4) = false ∧
      writesReg (.swap .w128) (.a 3) = true ∧ t.st = .done :=
  ⟨_, rfl, by decide, by decide, by decide⟩

/-- Two states that agree on what `addcarry` reads and differ elsewhere. -/
theorem test_witness_ResultsDependOnOperandsAlone :
    ∃ t1 t2, (∀ r, readsReg .addcarry r = true → readReg (words 1 2 3 4 1) r = readReg (words 1 2 7 8 1) r) ∧
      exec .addcarry (words 1 2 3 4 1) = .next t1 ∧ exec .addcarry (words 1 2 7 8 1) = .next t2 ∧ t1.st ≠ .fault ∧
      writesReg .addcarry .rlo = true ∧ t1 ≠ t2 := by
  refine ⟨_, _, ?_, rfl, rfl, by decide, by decide, by decide⟩
  intro r h
  cases r <;> first | rfl | simp [readsReg] at h

end Sys2Proof.Machine.Tests
end

/-! PROOF. The acceptance of a `reduce` (spec/42_lattice_reduction.md R172 to R176): the widths of R12, the engine as
initialised, and the two outcomes. -/

namespace Sys2Proof.Machine

/-- L2 is one of the three admissible limb counts, whatever the open parameter N2 is (R12). -/
theorem instL2_mem_choices (i : Inst) : instL2 i ∈ [chosenL2 i 0, chosenL2 i 1, chosenL2 i 2] := by
  unfold instL2
  generalize Config.n2Choice i = c
  fin_cases c <;> simp

/-- The operand limbs of an instantiation all lie within A and B (R12, R31). -/
theorem length_lowLimbs_instL1 (r : Vector Word 32) (i : Inst) : (lowLimbs r (instL1 i)).length = instL1 i := by
  have := instL_order i
  rw [length_lowLimbs]
  omega

/-- A Gram value is twice as wide as an operand: N3 = 2·N1 (R11). -/
theorem two_pow_instL1_mul_self (i : Inst) : 2 ^ (32 * instL1 i) * 2 ^ (32 * instL1 i) = 2 ^ (32 * instL3 i) := by
  rw [← pow_add, instL3]
  congr 1
  omega

/-- A product of two operands of L1 limbs fits the L3 limbs of a Gram value (R174). -/
theorem mul_lt_two_pow_instL3 {i : Inst} {a b : Nat} (ha : a < 2 ^ (32 * instL1 i)) (hb : b < 2 ^ (32 * instL1 i)) :
    a * b < 2 ^ (32 * instL3 i) := by
  calc a * b < 2 ^ (32 * instL1 i) * 2 ^ (32 * instL1 i) := Nat.mul_lt_mul'' ha hb
    _ = 2 ^ (32 * instL3 i) := two_pow_instL1_mul_self i

/-- The norm k·k + 1 fits the L3 limbs of a Gram value too (R174). -/
theorem sq_succ_lt_two_pow_instL3 {i : Inst} {k : Nat} (hk : k < 2 ^ (32 * instL1 i)) :
    k * k + 1 < 2 ^ (32 * instL3 i) := by
  obtain ⟨hL0, hL01, -⟩ := instL_order i
  have hB : 1 < 2 ^ (32 * instL1 i) := Nat.one_lt_two_pow (by omega)
  calc k * k + 1 < 2 ^ (32 * instL1 i) * 2 ^ (32 * instL1 i) := by nlinarith
    _ = 2 ^ (32 * instL3 i) := two_pow_instL1_mul_self i

/-- A value that fits its limbs is held exactly (R15). -/
theorem uval_natLimbs_of_lt {l v : Nat} (h : v < 2 ^ (32 * l)) : uval (natLimbs l v) = v := by
  rw [uval_natLimbs, Nat.mod_eq_of_lt h]

/-- For operands of L1 limbs `initEngine` is the engine R172 to R176 describe. No Gram value wraps, whether or not k is below
n: even k·k + 1 is below 2^N3, for k is at most 2^N1 − 1. -/
theorem initEngine_accepted {i : Inst} {k n : Limbs} (hk : k.length = instL1 i) (hn : n.length = instL1 i)
    (budget : Word) (e : Engine) :
    (initEngine i k n budget e).Accepted i (uval k) (uval n) budget := by
  obtain ⟨hL0, hL01, -⟩ := instL_order i
  have hbk : uval k < 2 ^ (32 * instL1 i) := hk ▸ uval_lt k
  have hbn : uval n < 2 ^ (32 * instL1 i) := hn ▸ uval_lt n
  have hnn := mul_lt_two_pow_instL3 hbn hbn
  have hkk := sq_succ_lt_two_pow_instL3 hbk
  have hnk := mul_lt_two_pow_instL3 hbn hbk
  have hone : 1 < 2 ^ (32 * instL0 i) := Nat.one_lt_two_pow (by omega)
  exact
    { u0 := ⟨by simp [initEngine, hn, hL01], uval_take n _⟩
      u1 := ⟨length_natLimbs _ _, by simp [initEngine]⟩
      v0 := ⟨by simp [initEngine, hk, hL01], uval_take k _⟩
      v1 := ⟨length_natLimbs _ _, uval_natLimbs_of_lt hone⟩
      nu := ⟨length_natLimbs _ _, uval_natLimbs_of_lt hnn⟩
      nv := ⟨length_natLimbs _ _, uval_natLimbs_of_lt hkk⟩
      sp := ⟨length_natLimbs _ _, uval_natLimbs_of_lt hnk⟩
      control := ⟨rfl, rfl, rfl, rfl⟩
      latched := ⟨rfl, rfl⟩ }

section Acceptance

variable {w : Width} {i : Inst} {s : State} (hw : instOfWidth w = some i) (budget : Word)
include hw

/-- With k below n an acceptance starts the engine and changes nothing else but ST and TERM (R172, R176). -/
theorem acceptReduce_starts (h : uval (lowLimbs s.a (instL1 i)) < uval (lowLimbs s.b (instL1 i))) :
    ∃ e : Engine, e.Accepted i (uval (lowLimbs s.a (instL1 i))) (uval (lowLimbs s.b (instL1 i))) budget ∧
      acceptReduce w budget s = { s with st := .busy, term := .none, eng := e } := by
  refine ⟨_, initEngine_accepted (length_lowLimbs_instL1 s.a i) (length_lowLimbs_instL1 s.b i) budget s.eng, ?_⟩
  simp [acceptReduce, hw, operandA, operandB, widthLimbs_of_instOfWidth hw, lessThan, h]

/-- With k not below n an acceptance is the fault K_GE_N (R172). -/
theorem acceptReduce_kGeN (h : uval (lowLimbs s.b (instL1 i)) ≤ uval (lowLimbs s.a (instL1 i))) :
    acceptReduce w budget s = raiseFault .kGeN s := by
  simp [acceptReduce, hw, operandA, operandB, widthLimbs_of_instOfWidth hw, lessThan, h]

end Acceptance

/-- `reduce` is the acceptance with the budget in S (R171, R172). -/
theorem exec_reduce (w : Width) (s : State) : exec (.reduce w) s = .next (acceptReduce w s.sReg s) := rfl

/-- Settles O33: the five rows of R12 one by one, L2 by its three choices; then the two outcomes of acceptance. -/
theorem reduceStartsOrFaults : Obligations.ReduceStartsOrFaults := by
  refine ⟨fun row hrow => ?_, fun w i s hw => ⟨fun hlt => ?_, fun hle => ?_⟩⟩
  · simp only [List.mem_cons, List.not_mem_nil, or_false] at hrow
    rcases hrow with rfl | rfl | rfl | rfl | rfl
    all_goals exact ⟨by decide, rfl, rfl, rfl, instL2_mem_choices _⟩
  · obtain ⟨e, he, hacc⟩ := acceptReduce_starts hw s.sReg hlt
    exact ⟨e, he, by rw [exec_reduce, hacc]⟩
  · rw [exec_reduce, acceptReduce_kGeN hw s.sReg hle]
    rfl

end Sys2Proof.Machine

/-! PROOF. The state from step to step (spec/10_state.md R30 to R52): what a register reads after each named update, what a
command can do to the state, which registers it reads and writes, and that every step keeps the state coherent. -/

namespace Sys2Proof.Machine

/-! ### What a register reads after each named update -/

section Reads

variable {s : State} {r : Reg}

theorem readReg_complete (hst : r ≠ .status) : readReg (complete s) r = readReg s r := by
  cases r with
  | status => exact absurd rfl hst
  | _ => rfl

theorem readReg_raiseFault (c : CmdFault) (hst : r ≠ .status) : readReg (raiseFault c s) r = readReg s r := by
  cases r with
  | status => exact absurd rfl hst
  | _ => rfl

theorem readReg_acceptReduce (w : Width) (budget : Word) (hst : r ≠ .status) :
    readReg (acceptReduce w budget s) r = readReg s r := by
  rcases acceptReduce_cases w budget s with ⟨-, h⟩ | ⟨i, -, -, h⟩ | ⟨i, -, -, h⟩ <;> rw [h]
  · exact readReg_raiseFault _ hst
  · cases r with
    | status => exact absurd rfl hst
    | _ => rfl
  · exact readReg_raiseFault _ hst

theorem readReg_putLink (lo : Word) (c : Bit) (hlo : r ≠ .rlo) (hco : r ≠ .cout) :
    readReg (putLink lo c s) r = readReg s r := by
  cases r with
  | rlo => exact absurd rfl hlo
  | cout => exact absurd rfl hco
  | _ => rfl

theorem readReg_putProduct (p : Nat) (hlo : r ≠ .rlo) (hhi : r ≠ .rhi) : readReg (putProduct p s) r = readReg s r := by
  cases r with
  | rlo => exact absurd rfl hlo
  | rhi => exact absurd rfl hhi
  | _ => rfl

theorem readReg_putRlo (w : Word) (hlo : r ≠ .rlo) : readReg (putRlo w s) r = readReg s r := by
  cases r with
  | rlo => exact absurd rfl hlo
  | _ => rfl

theorem readReg_putRn (n : Nat) (hrn : r ≠ .rn) : readReg (putRn n s) r = readReg s r := by
  cases r with
  | rn => exact absurd rfl hrn
  | _ => rfl

theorem readReg_putFlag (c : Bool) (hco : r ≠ .cout) : readReg (putFlag c s) r = readReg s r := by
  cases r with
  | cout => exact absurd rfl hco
  | _ => rfl

/-- A store of L limbs into A leaves every register but limbs 0 to L − 1 of A (R34). -/
theorem readReg_putA {w : Width} {x : Limbs} (hx : x.length = widthLimbs w) (hr : lowLimbOfA w r = false) :
    readReg (putA x s) r = readReg s r := by
  cases r with
  | a j =>
    have hj : x.length ≤ j.val := by simpa [lowLimbOfA, hx] using hr
    simp [readReg, hj]
  | _ => rfl

/-- A store of L limbs into B leaves every register but limbs 0 to L − 1 of B (R34). -/
theorem readReg_putB {w : Width} {x : Limbs} (hx : x.length = widthLimbs w) (hr : lowLimbOfB w r = false) :
    readReg (putB x s) r = readReg s r := by
  cases r with
  | b j =>
    have hj : x.length ≤ j.val := by simpa [lowLimbOfB, hx] using hr
    simp [readReg, hj]
  | _ => rfl

/-- The limbs of A that a store of L limbs writes read what was stored, whatever the state was. -/
theorem readReg_putA_low {w : Width} {x : Limbs} (s' : State) (hx : x.length = widthLimbs w)
    (hr : lowLimbOfA w r = true) : readReg (putA x s) r = readReg (putA x s') r := by
  cases r with
  | a j =>
    have hj : j.val < x.length := by simpa [lowLimbOfA, hx] using hr
    simp [readReg, hj]
  | _ => cases hr

/-- The limbs of B that a store of L limbs writes read what was stored, whatever the state was. -/
theorem readReg_putB_low {w : Width} {x : Limbs} (s' : State) (hx : x.length = widthLimbs w)
    (hr : lowLimbOfB w r = true) : readReg (putB x s) r = readReg (putB x s') r := by
  cases r with
  | b j =>
    have hj : j.val < x.length := by simpa [lowLimbOfB, hx] using hr
    simp [readReg, hj]
  | _ => cases hr

/-- No register is a limb of A and of B at once. -/
theorem lowLimbOfB_of_lowLimbOfA {w : Width} (h : lowLimbOfA w r = true) : lowLimbOfB w r = false := by
  cases r with
  | a j => rfl
  | _ => cases h

/-- A host write to a register other than CMD stores the value's low bits in an operand register, and leaves any other as it
was (R52). -/
theorem readReg_writeReg_same (v : Word) (s : State) (r : Reg) :
    readReg (writeReg r v s) r =
      match r with
      | .cin => v &&& 1
      | .xw | .yw | .z1w | .z2w | .s | .a _ | .b _ => v
      | .rlo | .rhi | .rn | .cout | .c0 _ | .c1 _ | .status | .cmd => readReg s r := by
  cases r with
  | cin =>
    have hlt : v.toNat % 2 < 2 ^ 32 := by omega
    exact BitVec.eq_of_toNat_eq (by simpa [readReg, writeReg, Nat.and_one_is_mod] using hlt)
  | a j => simp [readReg, writeReg]
  | b j => simp [readReg, writeReg]
  | _ => rfl

end Reads

/-! ### The STATUS word -/

/-- The value of two bit fields side by side. -/
theorem toNat_append_eq_add {n m : Nat} (x : BitVec n) (y : BitVec m) :
    (x ++ y).toNat = x.toNat * 2 ^ m + y.toNat := by
  rw [BitVec.toNat_append, ← Nat.shiftLeft_add_eq_or_of_lt y.isLt, Nat.shiftLeft_eq]

/-- ST in bits 1:0, TERM in bits 3:2, FCODE in bits 7:4, and nothing above (R38). -/
theorem toNat_statusWord (s : State) :
    (statusWord s).toNat =
      (stCode s.st).toNat + 4 * (termCode (termShown s)).toNat + 16 * (fcodeField s.fcode).toNat := by
  have h0 : (0 : BitVec 24).toNat = 0 := rfl
  unfold statusWord
  rw [toNat_append_eq_add, toNat_append_eq_add, toNat_append_eq_add, h0]
  omega

theorem termShown_eq_ite (s : State) : termShown s = if s.st = .busy then s.lastTerm else s.term := by
  split
  · next h => exact termShown_busy h
  · next h => exact termShown_of_ne h

/-! ### Operands -/

/-- The limbs of every width lie within A and B (R10, R31). -/
theorem widthLimbs_le (w : Width) : widthLimbs w ≤ 32 := by cases w <;> decide

@[simp] theorem length_operandA (w : Width) (s : State) : (operandA w s).length = widthLimbs w := by
  simp [operandA, widthLimbs_le]

@[simp] theorem length_operandB (w : Width) (s : State) : (operandB w s).length = widthLimbs w := by
  simp [operandB, widthLimbs_le]

/-- The low limbs of a register are its limbs below the bound. -/
theorem lowLimbs_congr {n l : Nat} {x y : Vector Word n} (h : ∀ j : Fin n, j.val < l → x[j] = y[j]) :
    lowLimbs x l = lowLimbs y l := by
  refine List.ext_getElem (by simp) fun j hx hy => ?_
  have hj : j < l ∧ j < n := by simpa using hx
  simpa [lowLimbs] using h ⟨j, hj.2⟩ hj.1

theorem operandA_congr {w : Width} {s1 s2 : State} (h : ∀ r, lowLimbOfA w r = true → readReg s1 r = readReg s2 r) :
    operandA w s1 = operandA w s2 :=
  lowLimbs_congr fun j hj => h (.a j) (by simpa [lowLimbOfA] using hj)

theorem operandB_congr {w : Width} {s1 s2 : State} (h : ∀ r, lowLimbOfB w r = true → readReg s1 r = readReg s2 r) :
    operandB w s1 = operandB w s2 :=
  lowLimbs_congr fun j hj => h (.b j) (by simpa [lowLimbOfB] using hj)

/-- CIN reads zero-extended, so its word tells its bit (R81). -/
theorem cin_eq_of_readReg_eq {s1 s2 : State} (h : readReg s1 .cin = readReg s2 .cin) : s1.cin = s2.cin := by
  simpa [readReg] using congrArg (BitVec.setWidth 1) h

/-! ### What a command can do to the state -/

/-- What a command that completes leaves of the fields that are no operand and no result: ST is DONE, TERM NONE, and the
engine, FCODE, the last finished reduce's TERM and the host's own data are kept (R39, R40, R120, R140). -/
structure Completes (s t : State) : Prop where
  st : t.st = .done
  term : t.term = .none
  lastTerm : t.lastTerm = s.lastTerm
  fcode : t.fcode = s.fcode
  eng : t.eng = s.eng
  inbox : t.inbox = s.inbox
  readLog : t.readLog = s.readLog
  freeCount : t.freeCount = s.freeCount

/-- A reduce starts: ST is BUSY, TERM NONE, the engine initialised from operands of L1 limbs, and nothing else changes (R172,
R176). -/
def Starts (s t : State) : Prop :=
  ∃ i k n budget, k.length = instL1 i ∧ n.length = instL1 i ∧
    t = { s with st := .busy, term := .none, eng := initEngine i k n budget s.eng }

/-- `fits_below` is BAD_OPERAND at a bound that is 0 or above the limb count, and completes at any other (R150, R151). -/
theorem execFitsBelow_cases (w : Width) (s : State) :
    ((s.sReg = 0 ∨ widthLimbs w < s.sReg.toNat) ∧ execFitsBelow w s = .next (raiseFault .badOperand s)) ∨
    (¬(s.sReg = 0 ∨ widthLimbs w < s.sReg.toNat) ∧
      execFitsBelow w s = .next (complete (putFlag (fitsBelow (operandA w s) s.sReg.toNat) s))) := by
  unfold execFitsBelow
  split
  · next h => exact .inl ⟨h, rfl⟩
  · next h => exact .inr ⟨h, rfl⟩

/-- `reduce254` is the acceptance at width 256 with the budget 254, and a fault at any other width (R199, R98). -/
theorem execReduce254_cases (w : Width) (s : State) :
    (w = .w256 ∧ execReduce254 w s = .next (acceptReduce .w256 fixedBudget s)) ∨
    (w ≠ .w256 ∧ execReduce254 w s = .next (raiseFault .illegalWsel s)) := by
  unfold execReduce254
  split
  · next h => exact .inl ⟨h, rfl⟩
  · next h => exact .inr ⟨h, rfl⟩

/-- The acceptance of a reduce faults or starts a run (R98, R172). -/
theorem acceptReduce_faults_or_starts (w : Width) (budget : Word) (s : State) :
    (∃ c, acceptReduce w budget s = raiseFault c s) ∨ Starts s (acceptReduce w budget s) := by
  rcases acceptReduce_cases w budget s with ⟨-, h⟩ | ⟨i, hi, -, h⟩ | ⟨i, -, -, h⟩
  · exact .inl ⟨_, h⟩
  · have hL := widthLimbs_of_instOfWidth hi
    exact .inr ⟨i, _, _, _, by rw [length_operandA, hL], by rw [length_operandB, hL], h⟩
  · exact .inl ⟨_, h⟩

/-- What a command can do: raise a fault, complete, or start a run (R224, R120, R140, R172). -/
theorem exec_cases {i : Instr} {s t : State} (h : exec i s = .next t) :
    (∃ c, t = raiseFault c s) ∨ Completes s t ∨ Starts s t := by
  cases i with
  | fitsBelow w =>
    rcases execFitsBelow_cases w s with ⟨-, hw⟩ | ⟨-, hw⟩ <;> obtain rfl := Host.Outcome.next.inj (hw.symm.trans h)
    · exact .inl ⟨_, rfl⟩
    · exact .inr (.inl (by constructor <;> rfl))
  | reduce w =>
    obtain rfl := Host.Outcome.next.inj h
    exact (acceptReduce_faults_or_starts w s.sReg s).imp_right .inr
  | reduce254 w =>
    rcases execReduce254_cases w s with ⟨-, hw⟩ | ⟨-, hw⟩ <;> obtain rfl := Host.Outcome.next.inj (hw.symm.trans h)
    · exact (acceptReduce_faults_or_starts .w256 fixedBudget s).imp_right .inr
    · exact .inl ⟨_, rfl⟩
  | _ =>
    obtain rfl := Host.Outcome.next.inj h
    exact .inr (.inl (by constructor <;> rfl))

/-- Every command writes STATUS (R39, R40). -/
theorem ne_status_of_writesReg_eq_false {i : Instr} {r : Reg} (h : writesReg i r = false) : r ≠ .status := by
  rintro rfl
  cases i <;> simp [writesReg] at h

/-- A command changes no register but those it writes (R31, R35). -/
theorem readReg_exec {i : Instr} {s t : State} {r : Reg} (h : exec i s = .next t) (hr : writesReg i r = false) :
    readReg t r = readReg s r := by
  have hst := ne_status_of_writesReg_eq_false hr
  cases i with
  | fitsBelow w =>
    have hco : r ≠ .cout := by rintro rfl; simp [writesReg] at hr
    rcases execFitsBelow_cases w s with ⟨-, hw⟩ | ⟨-, hw⟩ <;> obtain rfl := Host.Outcome.next.inj (hw.symm.trans h)
    · exact readReg_raiseFault _ hst
    · rw [readReg_complete hst, readReg_putFlag _ hco]
  | reduce w =>
    obtain rfl := Host.Outcome.next.inj h
    exact readReg_acceptReduce w s.sReg hst
  | reduce254 w =>
    rcases execReduce254_cases w s with ⟨-, hw⟩ | ⟨-, hw⟩ <;> obtain rfl := Host.Outcome.next.inj (hw.symm.trans h)
    · exact readReg_acceptReduce _ _ hst
    · exact readReg_raiseFault _ hst
  | addcarry | subborrow =>
    obtain rfl := Host.Outcome.next.inj h
    obtain ⟨hlo, hco, -⟩ : r ≠ .rlo ∧ r ≠ .cout ∧ r ≠ .status := by simpa [writesReg] using hr
    rw [readReg_complete hst, readReg_putLink _ _ hlo hco]
  | umul | umulAdd | umulAdd2 =>
    obtain rfl := Host.Outcome.next.inj h
    obtain ⟨hlo, hhi, -⟩ : r ≠ .rlo ∧ r ≠ .rhi ∧ r ≠ .status := by simpa [writesReg] using hr
    rw [readReg_complete hst, readReg_putProduct _ hlo hhi]
  | signMask =>
    obtain rfl := Host.Outcome.next.inj h
    obtain ⟨hlo, -⟩ : r ≠ .rlo ∧ r ≠ .status := by simpa [writesReg] using hr
    rw [readReg_complete hst, readReg_putRlo _ hlo]
  | leadingZeroCount | bitLength w =>
    obtain rfl := Host.Outcome.next.inj h
    obtain ⟨hrn, -⟩ : r ≠ .rn ∧ r ≠ .status := by simpa [writesReg] using hr
    rw [readReg_complete hst, readReg_putRn _ hrn]
  | lessThan w | isNegative w =>
    obtain rfl := Host.Outcome.next.inj h
    obtain ⟨hco, -⟩ : r ≠ .cout ∧ r ≠ .status := by simpa [writesReg] using hr
    rw [readReg_complete hst, readReg_putFlag _ hco]
  | swap w =>
    obtain rfl := Host.Outcome.next.inj h
    obtain ⟨⟨ha, hb⟩, -⟩ : (lowLimbOfA w r = false ∧ lowLimbOfB w r = false) ∧ r ≠ .status := by
      simpa [writesReg] using hr
    rw [readReg_complete hst, readReg_putB (length_operandA w s) hb, readReg_putA (length_operandB w s) ha]
  | addShifted w | subShifted w =>
    obtain rfl := Host.Outcome.next.inj h
    obtain ⟨ha, -⟩ : lowLimbOfA w r = false ∧ r ≠ .status := by simpa [writesReg] using hr
    rw [readReg_complete hst, readReg_putA (by simp) ha]

/-! ### What a command reads -/

/-- Two next states of one command agree: in ST, in TERM and, unless it faulted, in every register it writes but STATUS. -/
def SameOutcome (i : Instr) (t1 t2 : State) : Prop :=
  t1.st = t2.st ∧ t1.term = t2.term ∧
  (t1.st ≠ .fault → ∀ r, writesReg i r = true → r ≠ .status → readReg t1 r = readReg t2 r)

section SameOutcome

variable {i : Instr} {s1 s2 : State}

theorem sameOutcome_raiseFault (i : Instr) (c1 c2 : CmdFault) (s1 s2 : State) :
    SameOutcome i (raiseFault c1 s1) (raiseFault c2 s2) :=
  ⟨rfl, rfl, fun h => absurd rfl h⟩

/-- A command that completes has the outcome its results give. -/
theorem sameOutcome_complete
    (h : ∀ r, writesReg i r = true → r ≠ .status → readReg s1 r = readReg s2 r) :
    SameOutcome i (complete s1) (complete s2) :=
  ⟨rfl, rfl, fun _ r hr hst => by rw [readReg_complete hst, readReg_complete hst, h r hr hst]⟩

theorem sameOutcome_putLink (lo : Word) (c : Bit)
    (hi : ∀ r, writesReg i r = true → r = .rlo ∨ r = .cout ∨ r = .status) :
    SameOutcome i (complete (putLink lo c s1)) (complete (putLink lo c s2)) :=
  sameOutcome_complete fun r hr hst => by
    rcases hi r hr with rfl | rfl | rfl
    · rfl
    · rfl
    · exact absurd rfl hst

theorem sameOutcome_putProduct (p : Nat)
    (hi : ∀ r, writesReg i r = true → r = .rlo ∨ r = .rhi ∨ r = .status) :
    SameOutcome i (complete (putProduct p s1)) (complete (putProduct p s2)) :=
  sameOutcome_complete fun r hr hst => by
    rcases hi r hr with rfl | rfl | rfl
    · rfl
    · rfl
    · exact absurd rfl hst

theorem sameOutcome_putRlo (w : Word) (hi : ∀ r, writesReg i r = true → r = .rlo ∨ r = .status) :
    SameOutcome i (complete (putRlo w s1)) (complete (putRlo w s2)) :=
  sameOutcome_complete fun r hr hst => by
    rcases hi r hr with rfl | rfl
    · rfl
    · exact absurd rfl hst

theorem sameOutcome_putRn (n : Nat) (hi : ∀ r, writesReg i r = true → r = .rn ∨ r = .status) :
    SameOutcome i (complete (putRn n s1)) (complete (putRn n s2)) :=
  sameOutcome_complete fun r hr hst => by
    rcases hi r hr with rfl | rfl
    · rfl
    · exact absurd rfl hst

theorem sameOutcome_putFlag (c : Bool) (hi : ∀ r, writesReg i r = true → r = .cout ∨ r = .status) :
    SameOutcome i (complete (putFlag c s1)) (complete (putFlag c s2)) :=
  sameOutcome_complete fun r hr hst => by
    rcases hi r hr with rfl | rfl
    · rfl
    · exact absurd rfl hst

theorem sameOutcome_putA {w : Width} {x : Limbs} (hx : x.length = widthLimbs w)
    (hi : ∀ r, writesReg i r = true → lowLimbOfA w r = true ∨ r = .status) :
    SameOutcome i (complete (putA x s1)) (complete (putA x s2)) :=
  sameOutcome_complete fun r hr hst => readReg_putA_low s2 hx ((hi r hr).resolve_right hst)

theorem sameOutcome_swap {w : Width} {x y : Limbs} (hx : x.length = widthLimbs w) (hy : y.length = widthLimbs w) :
    SameOutcome (.swap w) (complete (putB x (putA y s1))) (complete (putB x (putA y s2))) :=
  sameOutcome_complete fun r hr hst => by
    have hab : (lowLimbOfA w r = true ∨ lowLimbOfB w r = true) ∨ r = .status := by simpa [writesReg] using hr
    rcases hab.resolve_right hst with ha | hb
    · have hb := lowLimbOfB_of_lowLimbOfA ha
      rw [readReg_putB hx hb, readReg_putB hx hb, readReg_putA_low s2 hy ha]
    · exact readReg_putB_low _ hx hb

/-- The acceptance of a reduce writes STATUS alone, and its outcome depends on k, n and the width. -/
theorem sameOutcome_acceptReduce {w : Width} (budget1 budget2 : Word)
    (hi : ∀ r, writesReg i r = true → r = .status)
    (ha : operandA w s1 = operandA w s2) (hb : operandB w s1 = operandB w s2) :
    SameOutcome i (acceptReduce w budget1 s1) (acceptReduce w budget2 s2) := by
  unfold acceptReduce
  rw [ha, hb]
  split
  · exact sameOutcome_raiseFault _ _ _ _ _
  · split
    · exact ⟨rfl, rfl, fun _ r hr hst => absurd (hi r hr) hst⟩
    · exact sameOutcome_raiseFault _ _ _ _ _

/-- What a command writes, and whether it faults, depend on the registers it reads alone (R30). -/
theorem exec_sameOutcome (h : ∀ r, readsReg i r = true → readReg s1 r = readReg s2 r) :
    ∃ t1 t2, exec i s1 = .next t1 ∧ exec i s2 = .next t2 ∧ SameOutcome i t1 t2 := by
  cases i with
  | addcarry | subborrow =>
    have hx : s1.xw = s2.xw := h .xw rfl
    have hy : s1.yw = s2.yw := h .yw rfl
    have hc : s1.cin = s2.cin := cin_eq_of_readReg_eq (h .cin rfl)
    refine ⟨_, _, rfl, rfl, ?_⟩
    rw [hx, hy, hc]
    exact sameOutcome_putLink _ _ (by simp [writesReg])
  | umul =>
    have hx : s1.xw = s2.xw := h .xw rfl
    have hy : s1.yw = s2.yw := h .yw rfl
    refine ⟨_, _, rfl, rfl, ?_⟩
    rw [hx, hy]
    exact sameOutcome_putProduct _ (by simp [writesReg])
  | umulAdd =>
    have hx : s1.xw = s2.xw := h .xw rfl
    have hy : s1.yw = s2.yw := h .yw rfl
    have hz : s1.z1w = s2.z1w := h .z1w rfl
    refine ⟨_, _, rfl, rfl, ?_⟩
    rw [hx, hy, hz]
    exact sameOutcome_putProduct _ (by simp [writesReg])
  | umulAdd2 =>
    have hx : s1.xw = s2.xw := h .xw rfl
    have hy : s1.yw = s2.yw := h .yw rfl
    have hz1 : s1.z1w = s2.z1w := h .z1w rfl
    have hz2 : s1.z2w = s2.z2w := h .z2w rfl
    refine ⟨_, _, rfl, rfl, ?_⟩
    rw [hx, hy, hz1, hz2]
    exact sameOutcome_putProduct _ (by simp [writesReg])
  | signMask =>
    have hx : s1.xw = s2.xw := h .xw rfl
    refine ⟨_, _, rfl, rfl, ?_⟩
    rw [hx]
    exact sameOutcome_putRlo _ (by simp [writesReg])
  | leadingZeroCount =>
    have hx : s1.xw = s2.xw := h .xw rfl
    refine ⟨_, _, rfl, rfl, ?_⟩
    rw [hx]
    exact sameOutcome_putRn _ (by simp [writesReg])
  | lessThan w =>
    have ha := operandA_congr fun r (hr : lowLimbOfA w r = true) => h r (by simp [readsReg, hr])
    have hb := operandB_congr fun r (hr : lowLimbOfB w r = true) => h r (by simp [readsReg, hr])
    refine ⟨_, _, rfl, rfl, ?_⟩
    rw [ha, hb]
    exact sameOutcome_putFlag _ (by simp [writesReg])
  | swap w =>
    have ha := operandA_congr fun r (hr : lowLimbOfA w r = true) => h r (by simp [readsReg, hr])
    have hb := operandB_congr fun r (hr : lowLimbOfB w r = true) => h r (by simp [readsReg, hr])
    refine ⟨_, _, rfl, rfl, ?_⟩
    rw [ha, hb]
    exact sameOutcome_swap (by simp) (by simp)
  | bitLength w =>
    have ha := operandA_congr fun r (hr : lowLimbOfA w r = true) => h r hr
    refine ⟨_, _, rfl, rfl, ?_⟩
    rw [ha]
    exact sameOutcome_putRn _ (by simp [writesReg])
  | fitsBelow w =>
    have ha := operandA_congr fun r (hr : lowLimbOfA w r = true) => h r (by simp [readsReg, hr])
    have hs : s1.sReg = s2.sReg := h .s (by simp [readsReg])
    rcases execFitsBelow_cases w s1 with ⟨hbad, h1⟩ | ⟨hok, h1⟩
    · exact ⟨_, _, h1, if_pos (hs ▸ hbad), sameOutcome_raiseFault _ _ _ _ _⟩
    · refine ⟨_, _, h1, if_neg (hs ▸ hok), ?_⟩
      rw [ha, hs]
      exact sameOutcome_putFlag _ (by simp [writesReg])
  | isNegative w =>
    have ha := operandA_congr fun r (hr : lowLimbOfA w r = true) => h r hr
    refine ⟨_, _, rfl, rfl, ?_⟩
    rw [ha]
    exact sameOutcome_putFlag _ (by simp [writesReg])
  | addShifted w | subShifted w =>
    have ha := operandA_congr fun r (hr : lowLimbOfA w r = true) => h r (by simp [readsReg, hr])
    have hb := operandB_congr fun r (hr : lowLimbOfB w r = true) => h r (by simp [readsReg, hr])
    have hs : s1.sReg = s2.sReg := h .s (by simp [readsReg])
    refine ⟨_, _, rfl, rfl, ?_⟩
    rw [ha, hb, hs]
    exact sameOutcome_putA (w := w) (by simp) (by simp [writesReg])
  | reduce w =>
    have ha := operandA_congr fun r (hr : lowLimbOfA w r = true) => h r (by simp [readsReg, hr])
    have hb := operandB_congr fun r (hr : lowLimbOfB w r = true) => h r (by simp [readsReg, hr])
    exact ⟨_, _, rfl, rfl, sameOutcome_acceptReduce _ _ (by simp [writesReg]) ha hb⟩
  | reduce254 w =>
    have ha := operandA_congr fun r (hr : lowLimbOfA w r = true) => h r (by simp [readsReg, hr])
    have hb := operandB_congr fun r (hr : lowLimbOfB w r = true) => h r (by simp [readsReg, hr])
    rcases execReduce254_cases w s1 with ⟨rfl, h1⟩ | ⟨hw, h1⟩
    · exact ⟨_, _, h1, rfl, sameOutcome_acceptReduce _ _ (by simp [writesReg]) ha hb⟩
    · exact ⟨_, _, h1, if_neg hw, sameOutcome_raiseFault _ _ _ _ _⟩

end SameOutcome

/-! ### Coherence (R39 to R47) -/

/-- The control fields, those `State.Coherent` is about: ST, TERM, the TERM of the last finished reduce, FCODE and the engine. -/
def State.control (s : State) : BlockState × Term × Term × Option CmdFault × Engine :=
  (s.st, s.term, s.lastTerm, s.fcode, s.eng)

@[simp] theorem writeReg_control (r : Reg) (v : Word) (s : State) : (writeReg r v s).control = s.control := by
  simp [State.control]

theorem waitEvent_control (s : State) : (waitEvent s).control = s.control := by
  unfold waitEvent
  split <;> rfl

section Coherence

variable {s t : State} {e : Engine}

/-- Coherence is about the control fields alone. -/
theorem State.Coherent.of_control_eq (hs : s.Coherent) (h : t.control = s.control) : t.Coherent := by
  simp only [State.control, Prod.mk.injEq] at h
  obtain ⟨hst, hterm, hlast, hfcode, heng⟩ := h
  obtain ⟨busy, fault, term, last, stallc, prevbl, shaped⟩ := hs
  rw [← hst, ← heng] at busy
  rw [← hst, ← hfcode] at fault
  rw [← hterm, ← hst] at term
  rw [← hterm, ← hlast] at last
  rw [← heng] at stallc prevbl shaped
  exact ⟨busy, fault, term, last, stallc, prevbl, shaped⟩

/-- A Gram value has at most 32 limbs, before and after the shrink (R12, R44). -/
theorem gramLimbs_le (e : Engine) : gramLimbs e ≤ 32 := by
  have := instL_order e.inst
  unfold gramLimbs
  split <;> omega

theorem State.Coherent.fcode_eq_none (hs : s.Coherent) (h : s.st ≠ .fault) : s.fcode = none :=
  not_ne_iff.mp (mt hs.fault.mpr h)

theorem State.Coherent.lstate_eq_idle (hs : s.Coherent) (h : s.st ≠ .busy) : s.eng.lstate = .idle :=
  not_ne_iff.mp (mt hs.busy.mpr h)

theorem State.Coherent.term_eq_none (hs : s.Coherent) (h : s.st ≠ .done) : s.term = .none :=
  not_ne_iff.mp (mt hs.term h)

theorem raiseFault_coherent (c : CmdFault) (hs : s.Coherent) : (raiseFault c s).Coherent where
  busy := by simp
  fault := by simp
  term := by simp
  last := by simp
  stallc := hs.stallc
  prevbl := hs.prevbl
  shaped := by simp

/-- A command completes into a coherent state when the engine is idle and there is no fault. -/
theorem Completes.coherent (h : Completes s t) (hs : s.Coherent) (hb : s.st ≠ .busy) (hf : s.st ≠ .fault) :
    t.Coherent where
  busy := by simp [h.st, h.eng, hs.lstate_eq_idle hb]
  fault := by simp [h.st, h.fcode, hs.fcode_eq_none hf]
  term := by simp [h.term]
  last := by simp [h.term]
  stallc := h.eng ▸ hs.stallc
  prevbl := h.eng ▸ hs.prevbl
  shaped := by simp [h.eng, hs.lstate_eq_idle hb]

/-- The acceptance of a reduce gives the working registers the widths of phase 1 (R173 to R176). -/
theorem initEngine_shaped {i : Inst} {k n : Limbs} (hk : k.length = instL1 i) (hn : n.length = instL1 i) (budget : Word)
    (e : Engine) : (initEngine i k n budget e).Shaped := by
  have ha := initEngine_accepted hk hn budget e
  exact
    { u0 := ha.u0.1
      u1 := ha.u1.1
      v0 := ha.v0.1
      v1 := ha.v1.1
      nu := ha.nu.1
      nv := ha.nv.1
      sp := ha.sp.1
      stallc := Nat.zero_le _
      phase1 := fun _ => ⟨rfl, rfl⟩ }

/-- The engine as `e` leaves it is that of a run that goes on. -/
structure Engine.Running (e : Engine) : Prop where
  lstate : e.lstate ≠ .idle
  shaped : e.Shaped
  prevbl : e.prevbl ≤ 1024

/-- What an iteration must answer for the next state to be coherent: a running engine, or at the finish the guard's counters
in range. -/
def Iteration.Sound : Iteration → Prop
  | .goesOn e => e.Running
  | .finishes _ e => e.stallc ≤ 4 ∧ e.prevbl ≤ 1024

/-- A run that goes on or starts: ST is BUSY, no fault, TERM NONE. -/
theorem coherent_of_running (hst : t.st = .busy) (hfc : t.fcode = none) (hterm : t.term = .none) (he : t.eng.Running) :
    t.Coherent where
  busy := by simp [hst, he.lstate]
  fault := by simp [hst, hfc]
  term := by simp [hterm]
  last := by simp [hterm]
  stallc := he.shaped.stallc.trans (by decide)
  prevbl := he.prevbl
  shaped := fun _ => he.shaped

/-- The finish of a run (R191). -/
theorem finishRun_coherent (r : Term) (hfc : s.fcode = none) (hstallc : e.stallc ≤ 4) (hprevbl : e.prevbl ≤ 1024) :
    (finishRun r e s).Coherent where
  busy := by simp
  fault := by simp [hfc]
  term := by simp
  last := by simp
  stallc := hstallc
  prevbl := hprevbl
  shaped := by simp

theorem orderVectors_running (he : e.Running) : (orderVectors e).Running :=
  ⟨by simpa using he.lstate, orderVectors_shaped he.shaped, by simpa using he.prevbl⟩

theorem reduceVector_running (he : e.Running) : (reduceVector e).Running :=
  ⟨by simpa using he.lstate, reduceVector_shaped he.shaped, by simpa using he.prevbl⟩

theorem Engine.Running.finishes_sound (r : Term) (he : e.Running) : (Iteration.finishes r e).Sound :=
  ⟨he.shaped.stallc.trans (by decide), he.prevbl⟩

/-- In phase 2 the guard's own registers may take any value in range. -/
theorem Engine.Running.with_guard (he : e.Running) (h2 : e.lstate = .p2) {c p : Nat} (v : Bool) (hc : c ≤ stallThreshold)
    (hp : p ≤ 1024) : ({ e with stallc := c, prevbl := p, prevv := v } : Engine).Running where
  lstate := he.lstate
  shaped :=
    { he.shaped with
      stallc := hc
      phase1 := fun h1 => absurd (h2.symm.trans h1) (by decide) }
  prevbl := hp

/-- The bit length of sp stays within the range of PREVBL (R47, R163). -/
theorem Engine.Running.bitLength_sp_le (he : e.Running) : bitLength e.sp ≤ 1024 := by
  have hb := bitLength_le e.sp
  have hg := gramLimbs_le e
  rw [bitWidth, he.shaped.sp] at hb
  omega

theorem guardStep_sound (he : e.Running) (h2 : e.lstate = .p2) : (guardStep e).Sound := by
  have hsp := he.bitLength_sp_le
  rcases guardStep_cases e with ⟨-, -, -, h⟩ | ⟨-, -, hc, h⟩ | ⟨-, h⟩ <;> rw [h]
  · exact ⟨Nat.succ_le_succ he.shaped.stallc, he.prevbl⟩
  · exact he.with_guard h2 true hc hsp
  · exact he.with_guard h2 true (Nat.zero_le _) hsp

theorem phase1_sound (he : e.Running) (h1 : e.lstate = .p1) : (phase1 (instL2 e.inst) e).Sound := by
  have ho := orderVectors_running he
  rcases phase1_cases (instL2 e.inst) e with ⟨-, h⟩ | ⟨-, -, h⟩ | ⟨-, -, h⟩ <;> rw [h]
  · exact ho.finishes_sound _
  · have hshaped := shrink_shaped ho.shaped (by simpa using h1)
    rw [orderVectors_inst] at hshaped
    exact ⟨by simp [shrink], hshaped, ho.prevbl⟩
  · exact reduceVector_running ho

theorem phase2_sound (he : e.Running) (h2 : e.lstate = .p2) : (phase2 e).Sound := by
  have ho := orderVectors_running he
  have hg := guardStep_sound ho (by simpa using h2)
  rcases phase2_cases e with ⟨-, h⟩ | ⟨-, e2, he2, h⟩ | ⟨-, e2, he2, h⟩ <;> rw [h]
  · exact ho.finishes_sound _
  · rw [he2] at hg
    exact hg
  · rw [he2] at hg
    exact reduceVector_running hg

/-- The outcome of a sound iteration keeps a running block coherent. -/
theorem applyIteration_coherent {r : Iteration} (hr : r.Sound) (hs : s.Coherent) (hb : s.st = .busy) :
    (applyIteration r s).Coherent := by
  have hfc := hs.fcode_eq_none (by simp [hb])
  have hterm := hs.term_eq_none (by simp [hb])
  cases r with
  | goesOn e => exact coherent_of_running hb hfc hterm hr
  | finishes r e => exact finishRun_coherent r hfc hr.1 hr.2

/-- An engine step keeps the state coherent (R198). -/
theorem engineStep_coherent (hs : s.Coherent) : (engineStep s).Coherent := by
  rcases engineStep_cases s with ⟨-, h⟩ | ⟨hl, h⟩ | ⟨hl, h⟩ <;> rw [h]
  · exact hs
  · have hne : s.eng.lstate ≠ .idle := by simp [hl]
    exact applyIteration_coherent (phase1_sound ⟨hne, hs.shaped hne, hs.prevbl⟩ hl) hs (hs.busy.mpr hne)
  · have hne : s.eng.lstate ≠ .idle := by simp [hl]
    exact applyIteration_coherent (phase2_sound ⟨hne, hs.shaped hne, hs.prevbl⟩ hl) hs (hs.busy.mpr hne)

/-- A command, which is executed in IDLE and DONE alone (R222), keeps the state coherent. -/
theorem exec_coherent {i : Instr} (hs : s.Coherent) (hst : s.st = .idle ∨ s.st = .done) (h : exec i s = .next t) :
    t.Coherent := by
  have hb : s.st ≠ .busy := by rcases hst with hst | hst <;> simp [hst]
  have hf : s.st ≠ .fault := by rcases hst with hst | hst <;> simp [hst]
  rcases exec_cases h with ⟨c, rfl⟩ | hc | ⟨j, k, n, budget, hk, hn, rfl⟩
  · exact raiseFault_coherent c hs
  · exact hc.coherent hs hb hf
  · have he : (initEngine j k n budget s.eng).Running :=
      ⟨by simp [initEngine], initEngine_shaped hk hn _ _, hs.prevbl⟩
    exact coherent_of_running rfl (hs.fcode_eq_none hf) rfl he

theorem writeCmd_coherent {v : Word} (hs : s.Coherent) (h : writeCmd v s = .next t) : t.Coherent := by
  rcases writeCmd_cases h with ⟨hst, i, -, hi⟩ | ⟨-, c, -, hc⟩ | ⟨-, hc⟩ | ⟨-, hc⟩
  · exact exec_coherent hs hst hi.symm
  · exact Host.Outcome.next.inj hc ▸ raiseFault_coherent c hs
  · exact Host.Outcome.next.inj hc ▸ raiseFault_coherent _ hs
  · exact Host.Outcome.next.inj hc ▸ hs

/-- The state a reset event leaves is coherent, whatever the state was (R251, R47). -/
theorem resetEvent_coherent (s : State) : (resetEvent s).Coherent where
  busy := by simp
  fault := by simp
  term := by simp
  last := by simp
  stallc := Nat.le_of_lt_succ (Config.freeUpTo 4 _).isLt
  prevbl := Nat.le_of_lt_succ (Config.freeUpTo 1024 _).isLt
  shaped := by simp

/-- Every event keeps the state coherent. -/
theorem eventResult_coherent {ev : Event} (hs : s.Coherent) (h : eventResult ev s = .next t) : t.Coherent := by
  rcases eventResult_cases h with ⟨r, -, rfl⟩ | ⟨r, v, -, -, rfl⟩ | ⟨v, -, hv⟩ | ⟨-, rfl⟩ | ⟨-, rfl⟩ | ⟨-, rfl⟩ | ⟨-, rfl⟩
  · exact hs.of_control_eq rfl
  · exact hs.of_control_eq (writeReg_control r v s)
  · exact writeCmd_coherent hs hv
  · exact hs.of_control_eq rfl
  · exact hs.of_control_eq (waitEvent_control s)
  · exact engineStep_coherent hs
  · exact resetEvent_coherent s

end Coherence

/-! ### Host writes beside the engine -/

/-- An iteration's outcome is put into fields no host write to another register than CMD reaches. -/
theorem applyIteration_writeReg (i : Iteration) (r : Reg) (v : Word) (s : State) :
    applyIteration i (writeReg r v s) = writeReg r v (applyIteration i s) := by
  cases i <;> cases r <;> rfl

/-- A host write to a register other than CMD commutes with an engine step (R48, R254). -/
theorem engineStep_writeReg (r : Reg) (v : Word) (s : State) :
    engineStep (writeReg r v s) = writeReg r v (engineStep s) := by
  unfold engineStep
  rw [writeReg_eng]
  split
  · rfl
  · exact applyIteration_writeReg _ r v s
  · exact applyIteration_writeReg _ r v s

/-! ### The step of each kind of event -/

section StepOfEvent

variable {s : State} (hw : s.wasReset = true)
include hw

/-- With an event waiting the step is that event, on the state with the event taken from the list. -/
theorem step_of_inbox_cons {e : Event} {rest : List Event} (hi : s.inbox = e :: rest) :
    step s = eventResult e { s with inbox := rest } := by
  simp [step, nextEvent, hi, hw]

/-- With no event waiting the step is an engine step. -/
theorem step_of_inbox_nil (hi : s.inbox = []) : step s = .next (engineStep s) := by
  simp [step, nextEvent, hi, hw]

end StepOfEvent

/-- In IDLE and DONE a command written to CMD is executed (R222). -/
theorem writeCmd_of_decode {s : State} {v : Word} {i : Instr} (hst : s.st = .idle ∨ s.st = .done)
    (hd : decode v = .cmd i) : writeCmd v s = exec i s := by
  rcases hst with hst | hst <;> simp [writeCmd, hst, hd]

/-! ### The statements -/

/-- Settles O6: each kind of step keeps the control fields coherent. -/
theorem stepKeepsStateCoherent : Obligations.StepKeepsStateCoherent := by
  intro s t hs h
  rcases step_cases h with ⟨-, -, rfl⟩ | ⟨e, rest, -, -, he⟩
  · exact engineStep_coherent hs
  · exact eventResult_coherent (hs.of_control_eq (t := { s with inbox := rest }) rfl) he

/-- Settles O49, by induction on the number of engine steps. -/
theorem operandWritesDoNotDisturbARun : Obligations.OperandWritesDoNotDisturbARun := by
  intro j
  induction j with
  | zero => intro r v s; rfl
  | succ j ih =>
    intro r v s
    rw [engineRun, engineRun, engineStep_writeReg, ih]

/-- Settles O56: what the written register reads, and that no other register changes. -/
theorem hostWriteLandsInOneRegister : Obligations.HostWriteLandsInOneRegister := by
  intro s r v rest hw hi hr
  refine ⟨writeReg r v { s with inbox := rest }, ?_, by simp, by simp, by simp, fun q hq => ?_, ?_⟩
  · rw [step_of_inbox_cons hw hi]
    simp [eventResult, hostWrite, hr]
  · rw [readReg_writeReg_of_ne v _ hq]
    cases q <;> rfl
  · rw [readReg_writeReg_same]
    cases r <;> rfl

/-- Settles O58: the four fields side by side, each with its codes. -/
theorem statusWordHasTheLayoutOfItsFields : Obligations.StatusWordHasTheLayoutOfItsFields := by
  intro s st term fcode
  have hst : (stCode s.st).toNat = st := by cases h : s.st <;> simp [st, h, stCode]
  have hterm : (termCode (termShown s)).toNat = term := by
    rw [termShown_eq_ite]
    cases h : (if s.st = .busy then s.lastTerm else s.term) <;> simp [term, h, termCode]
  have hfcode : (fcodeField s.fcode).toNat = fcode := by
    rcases h : s.fcode with _ | c
    · simp [fcode, h, fcodeField]
    · cases c <;> simp [fcode, h, fcodeField, faultCode]
  rw [readReg, toNat_statusWord, hst, hterm, hfcode]

/-- Settles O59: the frame of each command, and the three ways it can end. -/
theorem commandsWriteOnlyTheirOwnRegisters : Obligations.CommandsWriteOnlyTheirOwnRegisters := by
  intro i s t h
  refine ⟨fun r hr => readReg_exec h hr, ?_⟩
  rcases exec_cases h with ⟨c, rfl⟩ | hc | ⟨j, k, n, budget, -, -, rfl⟩
  · exact ⟨by simp, rfl, rfl, rfl, rfl⟩
  · exact ⟨fun _ => hc.eng, hc.lastTerm, hc.inbox, hc.readLog, hc.freeCount⟩
  · exact ⟨by simp, rfl, rfl, rfl, rfl⟩

/-- Settles O60, command by command in `exec_sameOutcome`. -/
theorem resultsDependOnOperandsAlone : Obligations.ResultsDependOnOperandsAlone := by
  intro i s1 s2 t1 t2 h h1 h2
  obtain ⟨u1, u2, hu1, hu2, hsame⟩ := exec_sameOutcome h
  obtain rfl := Host.Outcome.next.inj (hu1.symm.trans h1)
  obtain rfl := Host.Outcome.next.inj (hu2.symm.trans h2)
  exact hsame

/-- Settles O5, field by field. -/
theorem resetStateIsIdleAndCoherent : Obligations.ResetStateIsIdleAndCoherent := by
  refine ⟨by decide, rfl, ?_⟩
  constructor <;> simp [State.reset, Engine.reset]

/-- Settles O50: the step is its event, and the event of a CMD write its command. -/
theorem stepRunsTheDecodedCommand : Obligations.StepRunsTheDecodedCommand := by
  intro s hw
  refine ⟨fun v rest i hi hst hd => ?_, fun rest hi => step_of_inbox_cons hw hi, step_of_inbox_nil hw⟩
  calc step s = writeCmd v { s with inbox := rest } := step_of_inbox_cons hw hi
    _ = exec i { s with inbox := rest } := writeCmd_of_decode hst hd

end Sys2Proof.Machine

/-! # The working registers and the host's reads (R74, R75, R81, R191) -/

namespace Sys2Proof.Machine

/-- An iteration's outcome that does not set ST to DONE is a run that goes on: the engine alone is replaced (R75, R191). -/
theorem applyIteration_of_st_ne_done {i : Iteration} {s : State} (h : (applyIteration i s).st ≠ .done) :
    applyIteration i s = { s with eng := (applyIteration i s).eng } := by
  cases i with
  | goesOn e => rfl
  | finishes reason e => exact absurd (finishRun_st reason e s) h

/-- An engine step after which ST is not DONE has replaced the engine alone (R75, R191). -/
theorem engineStep_of_st_ne_done {s : State} (h : (engineStep s).st ≠ .done) :
    engineStep s = { s with eng := (engineStep s).eng } := by
  rcases engineStep_cases s with ⟨-, hs⟩ | ⟨-, hs⟩ | ⟨-, hs⟩ <;> rw [hs] at h ⊢
  · exact applyIteration_of_st_ne_done h
  · exact applyIteration_of_st_ne_done h

/-- Settles O44: only the finish of a run writes outside the engine, and it sets ST to DONE. -/
theorem unfinishedStepTouchesWorkingRegistersOnly : Obligations.UnfinishedStepTouchesWorkingRegistersOnly := by
  intro s hbusy
  exact engineStep_of_st_ne_done (by simp [hbusy])

/-- The events still to happen are no register: no read sees them. -/
theorem readReg_with_inbox (s : State) (es : List Event) (r : Reg) : readReg { s with inbox := es } r = readReg s r := by
  cases r <;> rfl

/-- A read of any register but CMD draws no free value. -/
theorem drawsOnRead_of_ne_cmd {r : Reg} (h : r ≠ .cmd) : drawsOnRead r = 0 := if_neg h

/-- The step of a host read, in the fields it changes: the events, the values read, the count of free values (R74, R81). -/
theorem step_of_read {s : State} {r : Reg} {rest : List Event} (hw : s.wasReset = true) (hi : s.inbox = .read r :: rest) :
    step s = .next { s with
      inbox := rest, readLog := readReg s r :: s.readLog, freeCount := s.freeCount + drawsOnRead r } := by
  rw [step_of_inbox_cons hw hi, eventResult, hostRead, readReg_with_inbox]

/-- Settles O55, register by register: the one-bit registers zero-extended, the others as they are (R81). -/
theorem hostReadChangesNoRegister : Obligations.HostReadChangesNoRegister := by
  intro s r rest hw hi
  refine ⟨readReg s r, s.freeCount + drawsOnRead r, step_of_read hw hi, fun hr => ?_, ?_⟩
  · rw [drawsOnRead_of_ne_cmd hr, Nat.add_zero]
  · cases r with
    | cin | cout => exact BitVec.toNat_setWidth_of_le (by decide)
    | cmd => trivial
    | _ => rfl

end Sys2Proof.Machine

/-! # The command word: its fields, the decoder's tests, and the pseudo-commands (R90 to R98, R103) -/

namespace Sys2Proof

/-! ### The five fields of a word (R91) -/

section Fields

variable (v : Word)

theorem toNat_funcField : (funcField v).toNat = v.toNat % 16 := by simp [funcField]
theorem toNat_unitField : (unitField v).toNat = v.toNat / 16 % 4 := by
  simp [unitField, Nat.shiftRight_eq_div_pow]
theorem toNat_rsv0Field : (rsv0Field v).toNat = v.toNat / 64 % 4 := by
  simp [rsv0Field, Nat.shiftRight_eq_div_pow]
theorem toNat_wselField : (wselField v).toNat = v.toNat / 256 % 16 := by
  simp [wselField, Nat.shiftRight_eq_div_pow]
theorem toNat_rsv1Field : (rsv1Field v).toNat = v.toNat / 4096 := by
  have := v.isLt
  simp only [rsv1Field, BitVec.extractLsb'_toNat, Nat.shiftRight_eq_div_pow]
  omega

end Fields

/-- The five fields are the whole word. -/
theorem eq_of_fields_eq {v w : Word} (hfunc : funcField v = funcField w) (hunit : unitField v = unitField w)
    (hrsv0 : rsv0Field v = rsv0Field w) (hwsel : wselField v = wselField w) (hrsv1 : rsv1Field v = rsv1Field w) :
    v = w := by
  simp only [← BitVec.toNat_inj, toNat_funcField, toNat_unitField, toNat_rsv0Field, toNat_wselField,
    toNat_rsv1Field] at *
  omega

section CommandWord

variable (opc : BitVec 8) (c : BitVec 4)

/-- OPC and WSEL do not overlap (R91). -/
theorem toNat_commandWord : (commandWord opc c).toNat = opc.toNat + 256 * c.toNat := by
  simp only [commandWord, BitVec.toNat_add, BitVec.toNat_setWidth, BitVec.toNat_shiftLeft, Nat.shiftLeft_eq]
  omega

@[simp] theorem funcField_commandWord : funcField (commandWord opc c) = opc.extractLsb' 0 4 := by
  apply BitVec.eq_of_toNat_eq
  simp only [toNat_funcField, toNat_commandWord, BitVec.extractLsb'_toNat, Nat.shiftRight_zero]
  omega

@[simp] theorem unitField_commandWord : unitField (commandWord opc c) = opc.extractLsb' 4 2 := by
  apply BitVec.eq_of_toNat_eq
  simp only [toNat_unitField, toNat_commandWord, BitVec.extractLsb'_toNat, Nat.shiftRight_eq_div_pow]
  omega

@[simp] theorem wselField_commandWord : wselField (commandWord opc c) = c := by
  apply BitVec.eq_of_toNat_eq
  rw [toNat_wselField, toNat_commandWord]
  omega

end CommandWord

/-! ### The tables of the decoder (R94, R96) -/

theorem widthOfWsel_wselOfWidth (w : Width) : widthOfWsel (wselOfWidth w) = some w := by
  cases w <;> rfl

theorem wselOfWidth_of_widthOfWsel {c : BitVec 4} {w : Width} (h : widthOfWsel c = some w) : wselOfWidth w = c := by
  have hall : ∀ c : BitVec 4, ∀ w ∈ widthOfWsel c, wselOfWidth w = c := by decide
  exact hall c w h

/-- The word of a WAU command has UNIT 0, the command's function code, and WSEL 0 (R96). -/
theorem fields_encode_of_wau {f : BitVec 4} {i : Instr} (h : wauOfFunc f = some i) :
    unitField (encode i) = 0 ∧ funcField (encode i) = f ∧ wselField (encode i) = 0 := by
  unfold wauOfFunc at h
  split at h <;> cases h
  all_goals
    next hf => simp [encode, ← BitVec.toNat_inj, hf]

/-- The word of an FWI command has UNIT 1, the command's function code, and the WSEL of its width (R96). -/
theorem fields_encode_of_fwi {f : BitVec 4} {mk : Width → Instr} (h : fwiOfFunc f = some mk) (w : Width) :
    unitField (encode (mk w)) = 1 ∧ funcField (encode (mk w)) = f ∧ wselField (encode (mk w)) = wselOfWidth w := by
  unfold fwiOfFunc at h
  split at h <;> cases h
  all_goals
    next hf => simp [encode, ← BitVec.toNat_inj, hf]

/-- The word of an LRE command has UNIT 2, the command's function code, and the WSEL of its width (R96). -/
theorem fields_encode_of_lre {f : BitVec 4} {mk : Width → Instr} (h : lreOfFunc f = some mk) (w : Width) :
    unitField (encode (mk w)) = 2 ∧ funcField (encode (mk w)) = f ∧ wselField (encode (mk w)) = wselOfWidth w := by
  unfold lreOfFunc at h
  split at h <;> cases h
  all_goals
    next hf => simp [encode, ← BitVec.toNat_inj, hf]

theorem wellFormed_of_wau {f : BitVec 4} {i : Instr} (h : wauOfFunc f = some i) : i.wellFormed = true := by
  unfold wauOfFunc at h
  split at h <;> cases h <;> rfl

theorem wellFormed_of_fwi {f : BitVec 4} {mk : Width → Instr} (h : fwiOfFunc f = some mk) (w : Width) :
    (mk w).wellFormed = true := by
  unfold fwiOfFunc at h
  split at h <;> cases h <;> rfl

/-- The word of every command has its reserved fields at 0 and matches its row of the opcode map. -/
theorem encodeReserved (i : Instr) : Laws.EncodeReserved.Statement i := by
  cases i with
  | addcarry => exact Laws.EncodeReserved.addcarry
  | subborrow => exact Laws.EncodeReserved.subborrow
  | umul => exact Laws.EncodeReserved.umul
  | umulAdd => exact Laws.EncodeReserved.umulAdd
  | umulAdd2 => exact Laws.EncodeReserved.umulAdd2
  | signMask => exact Laws.EncodeReserved.signMask
  | leadingZeroCount => exact Laws.EncodeReserved.leadingZeroCount
  | lessThan w => exact Laws.EncodeReserved.lessThan w
  | swap w => exact Laws.EncodeReserved.swap w
  | bitLength w => exact Laws.EncodeReserved.bitLength w
  | fitsBelow w => exact Laws.EncodeReserved.fitsBelow w
  | isNegative w => exact Laws.EncodeReserved.isNegative w
  | addShifted w => exact Laws.EncodeReserved.addShifted w
  | subShifted w => exact Laws.EncodeReserved.subShifted w
  | reduce w => exact Laws.EncodeReserved.reduce w
  | reduce254 w => exact Laws.EncodeReserved.reduce254 w

/-- Every command stands in one of the three tables. -/
theorem exists_func_of_instr (i : Instr) :
    (∃ f, wauOfFunc f = some i) ∨ (∃ f mk w, fwiOfFunc f = some mk ∧ i = mk w) ∨
      ∃ f mk w, lreOfFunc f = some mk ∧ i = mk w := by
  cases i with
  | addcarry => exact .inl ⟨0, rfl⟩
  | subborrow => exact .inl ⟨1, rfl⟩
  | umul => exact .inl ⟨2, rfl⟩
  | umulAdd => exact .inl ⟨3, rfl⟩
  | umulAdd2 => exact .inl ⟨4, rfl⟩
  | signMask => exact .inl ⟨5, rfl⟩
  | leadingZeroCount => exact .inl ⟨6, rfl⟩
  | lessThan w => exact .inr (.inl ⟨0, _, w, rfl, rfl⟩)
  | swap w => exact .inr (.inl ⟨1, _, w, rfl, rfl⟩)
  | bitLength w => exact .inr (.inl ⟨2, _, w, rfl, rfl⟩)
  | fitsBelow w => exact .inr (.inl ⟨3, _, w, rfl, rfl⟩)
  | isNegative w => exact .inr (.inl ⟨4, _, w, rfl, rfl⟩)
  | addShifted w => exact .inr (.inl ⟨5, _, w, rfl, rfl⟩)
  | subShifted w => exact .inr (.inl ⟨6, _, w, rfl, rfl⟩)
  | reduce w => exact .inr (.inr ⟨0, _, w, rfl, rfl⟩)
  | reduce254 w => exact .inr (.inr ⟨1, _, w, rfl, rfl⟩)

theorem wauOfFunc_eq_none_iff (f : BitVec 4) : wauOfFunc f = none ↔ 7 ≤ f.toNat := by
  revert f
  decide

theorem fwiOfFunc_eq_none_iff (f : BitVec 4) : fwiOfFunc f = none ↔ 7 ≤ f.toNat := by
  rw [← Option.isNone_iff_eq_none]
  revert f
  decide

theorem lreOfFunc_cases (f : BitVec 4) :
    (f.toNat = 0 ∧ lreOfFunc f = some .reduce) ∨ (f.toNat = 1 ∧ lreOfFunc f = some .reduce254) ∨
      (2 ≤ f.toNat ∧ lreOfFunc f = none) := by
  have hf : f = 0 ∨ f = 1 ∨ (2 ≤ f.toNat ∧ (lreOfFunc f).isNone = true) := by
    revert f
    decide
  rcases hf with rfl | rfl | ⟨h2, hnone⟩
  · exact .inl ⟨rfl, rfl⟩
  · exact .inr (.inl ⟨rfl, rfl⟩)
  · exact .inr (.inr ⟨h2, Option.isNone_iff_eq_none.mp hnone⟩)

theorem widthOfWsel_eq_none_iff (c : BitVec 4) : widthOfWsel c = none ↔ 11 ≤ c.toNat := by
  revert c
  decide

/-! ### The width test of a format-Z command (R97, R98) -/

section AtWidth

variable {c : BitVec 4} {mk : Width → Instr}

theorem atWidth_wselOfWidth {w : Width} (hw : (mk w).wellFormed = true) : atWidth (wselOfWidth w) mk = .cmd (mk w) := by
  simp [atWidth, widthOfWsel_wselOfWidth, hw]

/-- The width test passes at a width the command takes, and else is ILLEGAL_WSEL. -/
theorem atWidth_cases (c : BitVec 4) (mk : Width → Instr) :
    (∃ w, c = wselOfWidth w ∧ (mk w).wellFormed = true ∧ atWidth c mk = .cmd (mk w)) ∨
      atWidth c mk = .illegal .illegalWsel := by
  cases hc : widthOfWsel c with
  | none => exact .inr (by simp [atWidth, hc])
  | some w =>
    obtain rfl := wselOfWidth_of_widthOfWsel hc
    by_cases hw : (mk w).wellFormed = true
    · exact .inl ⟨w, rfl, hw, atWidth_wselOfWidth hw⟩
    · exact .inr (by simp [atWidth, hc, hw])

theorem atWidth_ne_illegalCmd : atWidth c mk ≠ .illegal .illegalCmd := by
  rcases atWidth_cases c mk with ⟨w, -, -, h⟩ | h <;> simp [h]

/-- An FWI command takes every width, so only a reserved code is refused (R94, R98). -/
theorem atWidth_fwi_eq_illegal_iff {f : BitVec 4} (hf : fwiOfFunc f = some mk) :
    atWidth c mk = .illegal .illegalWsel ↔ 11 ≤ c.toNat := by
  rw [← widthOfWsel_eq_none_iff]
  cases hc : widthOfWsel c with
  | none => simp [atWidth, hc]
  | some w => simp [atWidth, hc, wellFormed_of_fwi hf w]

theorem atWidth_reduce_eq_illegal_iff (c : BitVec 4) :
    atWidth c .reduce = .illegal .illegalWsel ↔ c.toNat < 2 ∨ 6 < c.toNat := by
  revert c
  decide

theorem atWidth_reduce254_eq_illegal_iff (c : BitVec 4) :
    atWidth c .reduce254 = .illegal .illegalWsel ↔ c.toNat ≠ 2 := by
  revert c
  decide

end AtWidth

/-! ### The decoder, unit by unit (R97) -/

section Decode

variable {v : Word}

theorem decode_of_reserved (h : rsv1Field v ≠ 0 ∨ rsv0Field v ≠ 0) : decode v = .illegal .illegalCmd := if_pos h

/-! Both reserved fields are 0 from here on. -/

section Unreserved

variable (h1 : rsv1Field v = 0) (h0 : rsv0Field v = 0)
include h1 h0

theorem decode_of_wau (hu : unitField v = 0) :
    decode v = (wauOfFunc (funcField v)).elim (.illegal .illegalCmd)
      fun i => if wselField v = 0 then .cmd i else .illegal .illegalCmd := by
  cases hf : wauOfFunc (funcField v) <;> simp [decode, h1, h0, hu, hf]

theorem decode_of_fwi (hu : unitField v = 1) :
    decode v = (fwiOfFunc (funcField v)).elim (.illegal .illegalCmd) (atWidth (wselField v)) := by
  cases hf : fwiOfFunc (funcField v) <;> simp [decode, h1, h0, hu, hf]

theorem decode_of_lre (hu : unitField v = 2) :
    decode v = (lreOfFunc (funcField v)).elim (.illegal .illegalCmd) (atWidth (wselField v)) := by
  cases hf : lreOfFunc (funcField v) <;> simp [decode, h1, h0, hu, hf]

theorem decode_of_unit_three (hu : unitField v = 3) : decode v = .illegal .illegalCmd := by
  simp [decode, h1, h0, hu]

/-- An unreserved word with the unit, the function and the width code of a command is the command's word. -/
theorem encode_eq_of_fields_eq {i : Instr} (hunit : unitField (encode i) = unitField v)
    (hfunc : funcField (encode i) = funcField v) (hwsel : wselField (encode i) = wselField v) : encode i = v := by
  obtain ⟨hrsv1, hrsv0, -⟩ := encodeReserved i
  exact eq_of_fields_eq hfunc hunit (hrsv0.trans h0.symm) hwsel (hrsv1.trans h1.symm)

/-- What a format-Z word of a known function can decode to, in the FWI and the LRE alike (R97). -/
theorem decode_cases_of_atWidth {mk : Width → Instr} (hd : decode v = atWidth (wselField v) mk)
    (hmk : ∀ w, unitField (encode (mk w)) = unitField v ∧ funcField (encode (mk w)) = funcField v ∧
      wselField (encode (mk w)) = wselOfWidth w) :
    (∃ i, i.wellFormed = true ∧ encode i = v ∧ decode v = .cmd i) ∨ decode v = .illegal .illegalWsel := by
  rcases atWidth_cases (wselField v) mk with ⟨w, hc, hw, hcmd⟩ | hill
  · obtain ⟨hunit, hfunc, hwsel⟩ := hmk w
    exact .inl ⟨mk w, hw, encode_eq_of_fields_eq h1 h0 hunit hfunc (hwsel.trans hc.symm), hd.trans hcmd⟩
  · exact .inr (hd.trans hill)

end Unreserved

theorem unitField_cases (v : Word) : unitField v = 0 ∨ unitField v = 1 ∨ unitField v = 2 ∨ unitField v = 3 := by
  generalize unitField v = u
  revert u
  decide

/-- What a word can decode to (R97, R98): a command, whose word it then is, or one of two faults. -/
theorem decode_cases (v : Word) :
    (∃ i, i.wellFormed = true ∧ encode i = v ∧ decode v = .cmd i) ∨ decode v = .illegal .illegalWsel ∨
      decode v = .illegal .illegalCmd := by
  by_cases hr : rsv1Field v ≠ 0 ∨ rsv0Field v ≠ 0
  · exact .inr (.inr (decode_of_reserved hr))
  obtain ⟨h1, h0⟩ : rsv1Field v = 0 ∧ rsv0Field v = 0 := by simpa using hr
  rcases unitField_cases v with hu | hu | hu | hu
  · have hd := decode_of_wau h1 h0 hu
    cases hf : wauOfFunc (funcField v) with
    | none => exact .inr (.inr (by rw [hd, hf, Option.elim_none]))
    | some i =>
      rw [hf, Option.elim_some] at hd
      by_cases hc : wselField v = 0
      · obtain ⟨hunit, hfunc, hwsel⟩ := fields_encode_of_wau hf
        have hv := encode_eq_of_fields_eq h1 h0 (hunit.trans hu.symm) hfunc (hwsel.trans hc.symm)
        exact .inl ⟨i, wellFormed_of_wau hf, hv, hd.trans (if_pos hc)⟩
      · exact .inr (.inr (hd.trans (if_neg hc)))
  · have hd := decode_of_fwi h1 h0 hu
    cases hf : fwiOfFunc (funcField v) with
    | none => exact .inr (.inr (by rw [hd, hf, Option.elim_none]))
    | some mk =>
      rw [hf, Option.elim_some] at hd
      exact (decode_cases_of_atWidth h1 h0 hd (hu ▸ fields_encode_of_fwi hf)).imp_right .inl
  · have hd := decode_of_lre h1 h0 hu
    cases hf : lreOfFunc (funcField v) with
    | none => exact .inr (.inr (by rw [hd, hf, Option.elim_none]))
    | some mk =>
      rw [hf, Option.elim_some] at hd
      exact (decode_cases_of_atWidth h1 h0 hd (hu ▸ fields_encode_of_lre hf)).imp_right .inl
  · exact .inr (.inr (decode_of_unit_three h1 h0 hu))

end Decode

/-- Decoding undoes encoding, through the table the command stands in. -/
theorem decode_encode {i : Instr} (hw : i.wellFormed = true) : decode (encode i) = .cmd i := by
  obtain ⟨h1, h0, -⟩ := encodeReserved i
  rcases exists_func_of_instr i with ⟨f, hf⟩ | ⟨f, mk, w, hf, rfl⟩ | ⟨f, mk, w, hf, rfl⟩
  · obtain ⟨hunit, rfl, hwsel⟩ := fields_encode_of_wau hf
    rw [decode_of_wau h1 h0 hunit, hf, Option.elim_some, if_pos hwsel]
  · obtain ⟨hunit, rfl, hwsel⟩ := fields_encode_of_fwi hf w
    rw [decode_of_fwi h1 h0 hunit, hf, Option.elim_some, hwsel, atWidth_wselOfWidth hw]
  · obtain ⟨hunit, rfl, hwsel⟩ := fields_encode_of_lre hf w
    rw [decode_of_lre h1 h0 hunit, hf, Option.elim_some, hwsel, atWidth_wselOfWidth hw]

/-! ### Which words are illegal, and why (R98) -/

/-! Both reserved fields are 0 again. -/

section Causes

variable {v : Word} (h1 : rsv1Field v = 0) (h0 : rsv0Field v = 0)
include h1 h0

/-- In the WAU a function without a command and a width code other than 0 are both ILLEGAL_CMD (R98). -/
theorem decode_illegal_of_wau (hu : unitField v = 0) :
    (decode v = .illegal .illegalCmd ↔ 7 ≤ (funcField v).toNat ∨ (wselField v).toNat ≠ 0) ∧
      decode v ≠ .illegal .illegalWsel := by
  have hnone := wauOfFunc_eq_none_iff (funcField v)
  cases hf : wauOfFunc (funcField v) with
  | none => simp [decode_of_wau h1 h0 hu, hf, hnone.mp hf]
  | some i =>
    have hlt : ¬ 7 ≤ (funcField v).toNat := by simp [← hnone, hf]
    have hc : wselField v = 0 ↔ (wselField v).toNat = 0 := BitVec.toNat_eq
    rw [decode_of_wau h1 h0 hu, hf, Option.elim_some]
    split <;> simp_all

/-- In the FWI a function without a command is ILLEGAL_CMD, and then a reserved width code is ILLEGAL_WSEL (R98). -/
theorem decode_illegal_of_fwi (hu : unitField v = 1) :
    (decode v = .illegal .illegalCmd ↔ 7 ≤ (funcField v).toNat) ∧
      (decode v = .illegal .illegalWsel ↔ (funcField v).toNat < 7 ∧ 11 ≤ (wselField v).toNat) := by
  have hnone := fwiOfFunc_eq_none_iff (funcField v)
  cases hf : fwiOfFunc (funcField v) with
  | none => simp [decode_of_fwi h1 h0 hu, hf, hnone.mp hf]
  | some mk =>
    have hlt : (funcField v).toNat < 7 := by simp [← Nat.not_le, ← hnone, hf]
    simp [decode_of_fwi h1 h0 hu, hf, atWidth_ne_illegalCmd, atWidth_fwi_eq_illegal_iff hf, hlt]

/-- In the LRE a function without a command is ILLEGAL_CMD, and then a width code the command does not take is ILLEGAL_WSEL
(R98). -/
theorem decode_illegal_of_lre (hu : unitField v = 2) :
    (decode v = .illegal .illegalCmd ↔ 2 ≤ (funcField v).toNat) ∧
      (decode v = .illegal .illegalWsel ↔
        ((funcField v).toNat = 0 ∧ ((wselField v).toNat < 2 ∨ 6 < (wselField v).toNat)) ∨
          ((funcField v).toNat = 1 ∧ (wselField v).toNat ≠ 2)) := by
  rcases lreOfFunc_cases (funcField v) with ⟨hn, hf⟩ | ⟨hn, hf⟩ | ⟨hn, hf⟩
  · rw [decode_of_lre h1 h0 hu, hf, Option.elim_some, atWidth_reduce_eq_illegal_iff, hn]
    simp [atWidth_ne_illegalCmd]
  · rw [decode_of_lre h1 h0 hu, hf, Option.elim_some, atWidth_reduce254_eq_illegal_iff, hn]
    simp [atWidth_ne_illegalCmd]
  · rw [decode_of_lre h1 h0 hu, hf, Option.elim_none]
    simp only [true_iff, Decoded.illegal.injEq, reduceCtorEq, false_iff]
    omega

end Causes

end Sys2Proof

namespace Sys2Proof.Machine

/-- In IDLE and DONE an illegal word written to CMD raises its fault (R98, R222). -/
theorem writeCmd_of_illegal {s : State} {v : Word} {c : CmdFault} (hst : s.st = .idle ∨ s.st = .done)
    (hd : decode v = .illegal c) : writeCmd v s = .next (raiseFault c s) := by
  rcases hst with hst | hst <;> simp [writeCmd, hst, hd]

/-- The step of a host write to a register other than CMD (R52, R81). -/
theorem step_of_write {s : State} {r : Reg} {v : Word} {rest : List Event} (hw : s.wasReset = true)
    (hi : s.inbox = .write r v :: rest) (hr : r ≠ .cmd) : step s = .next (writeReg r v { s with inbox := rest }) := by
  rw [step_of_inbox_cons hw hi, eventResult, hostWrite, if_neg hr]

/-- The value a read of a one-bit register gives, written to CIN, is that bit (R52, R81). -/
theorem writeReg_cin_setWidth (b : Bit) (s : State) : writeReg .cin (b.setWidth 32) s = { s with cin := b } := by
  simp [writeReg, BitVec.setWidth_setWidth_of_le]

/-! ### The statements -/

/-- Settles O1: `decode_encode` one way, the command case of `decode_cases` the other. -/
theorem decodeIsInverseOfEncode : Obligations.DecodeIsInverseOfEncode := by
  refine fun v i => ⟨fun h => ?_, fun ⟨hw, hv⟩ => hv ▸ decode_encode hw⟩
  rcases decode_cases v with ⟨j, hw, hv, hd⟩ | hd | hd
  · cases hd.symm.trans h
    exact ⟨hw, hv⟩
  · cases hd.symm.trans h
  · cases hd.symm.trans h

/-- Settles O2: the word is that of its command (O1), which matches its row. -/
theorem decodedWordMatchesItsRow : Obligations.DecodedWordMatchesItsRow := by
  intro v i h
  obtain ⟨-, rfl⟩ := (decodeIsInverseOfEncode v i).mp h
  exact (encodeReserved i).2.2

/-- Settles O3: the two causes unit by unit, and `decode_cases` for there being no third. -/
theorem illegalWordsByCause : Obligations.IllegalWordsByCause := by
  intro v func unit rsv0 wsel rsv1
  rw [← and_assoc]
  refine ⟨?_, fun c hc => ⟨?_, fun s hst => writeCmd_of_illegal hst hc⟩⟩
  · simp only [func, unit, rsv0, wsel, rsv1, ← toNat_funcField, ← toNat_unitField, ← toNat_rsv0Field,
      ← toNat_wselField, ← toNat_rsv1Field]
    by_cases hr : rsv1Field v ≠ 0 ∨ rsv0Field v ≠ 0
    · have hn : (rsv1Field v).toNat ≠ 0 ∨ (rsv0Field v).toNat ≠ 0 := by simpa [← BitVec.toNat_inj] using hr
      simp only [decode_of_reserved hr, Decoded.illegal.injEq, reduceCtorEq, true_iff, false_iff]
      omega
    obtain ⟨h1, h0⟩ : rsv1Field v = 0 ∧ rsv0Field v = 0 := by simpa using hr
    rcases unitField_cases v with hu | hu | hu | hu
    · obtain ⟨hcmd, hwsel⟩ := decode_illegal_of_wau h1 h0 hu
      simp [hcmd, hwsel, h1, h0, hu]
    · obtain ⟨hcmd, hwsel⟩ := decode_illegal_of_fwi h1 h0 hu
      simp [hcmd, hwsel, h1, h0, hu]
    · obtain ⟨hcmd, hwsel⟩ := decode_illegal_of_lre h1 h0 hu
      simp [hcmd, hwsel, h1, h0, hu]
    · simp [decode_of_unit_three h1 h0 hu, h1, h0, hu]
  · rcases decode_cases v with ⟨i, -, -, hd⟩ | hd | hd <;> cases hd.symm.trans hc
    · exact .inr rfl
    · exact .inl rfl

/-- Settles O4: the words are those of their commands, and O1 gives what they decode to. -/
theorem sampleWordsDecode : Obligations.SampleWordsDecode := by
  have hdecode (v : Word) (i : Instr) := (decodeIsInverseOfEncode v i).mpr
  refine ⟨hdecode _ _ ⟨rfl, rfl⟩, hdecode _ _ ⟨rfl, rfl⟩, hdecode _ _ ⟨rfl, rfl⟩, hdecode _ _ ⟨rfl, rfl⟩,
    hdecode _ _ ⟨rfl, rfl⟩, hdecode _ _ ⟨rfl, rfl⟩, hdecode _ _ ⟨rfl, rfl⟩, fun row hrow => ?_⟩
  have hword : encode (.lessThan row.2.1) = row.1 ∧ widthLimbs row.2.1 = row.2.2 := by
    revert row
    decide
  exact ⟨hdecode _ _ ⟨rfl, hword.1⟩, hword.2⟩

/-- Settles O57: MOVF is the read of COUT and then the write of what was read; WAIT is the read of STATUS. -/
theorem movfCarriesCoutIntoCin : Obligations.MovfCarriesCoutIntoCin := by
  intro s rest hw
  refine ⟨fun hi => ⟨movfEvent { s with inbox := rest }, step_of_inbox_cons hw hi, ?_⟩, fun hi => ?_⟩
  · calc step (movfEvent { s with inbox := rest })
        = .next (writeReg .cin (s.cout.setWidth 32) { movfEvent { s with inbox := rest } with inbox := rest }) :=
          step_of_write hw rfl nofun
      _ = _ := by
          rw [writeReg_cin_setWidth]
          rfl
  · rw [step_of_inbox_cons hw hi, eventResult, waitEvent]
    split <;> rfl

end Sys2Proof.Machine

/-! # The widening arithmetic unit (spec/40_widening_arith.md R120 to R129), and that a step always answers (R225) -/

namespace Sys2Proof.Machine

/-! ### Links and products (R121 to R125) -/

/-- The two words of a value below 2^64 are the value (R123). -/
theorem lowWord_add_highWord {p : Nat} (h : p < 2 ^ 64) :
    (lowWord p).toNat + 2 ^ 32 * (highWord p).toNat = p := by
  simp only [lowWord, highWord, BitVec.toNat_ofNat]
  omega

/-- The exact product with both addends fits two words (R125). -/
theorem fusedProduct_lt (x y z1 z2 : Word) : fusedProduct x y z1 z2 < 2 ^ 64 := by
  have hxy : x.toNat * y.toNat ≤ (2 ^ 32 - 1) * (2 ^ 32 - 1) := Nat.mul_le_mul (by omega) (by omega)
  unfold fusedProduct
  omega

/-- The three multiplies deliver their value whole (R129). -/
theorem fusedProduct_words (x y z1 z2 : Word) :
    (lowWord (fusedProduct x y z1 z2)).toNat + 2 ^ 32 * (highWord (fusedProduct x y z1 z2)).toNat =
      x.toNat * y.toNat + z1.toNat + z2.toNat :=
  lowWord_add_highWord (fusedProduct_lt x y z1 z2)

section Links

variable (x y : Word) (c : Bit)

theorem toNat_sumWord : (sumWord x y c).toNat = (x.toNat + y.toNat + c.toNat) % 2 ^ 32 := BitVec.toNat_ofNat ..

theorem toNat_carryOut : (carryOut x y c).toNat = (x.toNat + y.toNat + c.toNat) / 2 ^ 32 := by
  rw [carryOut, BitVec.toNat_ofNat]
  omega

theorem toNat_diffWord : ((diffWord x y c).toNat : Int) = ((x.toNat : Int) - y.toNat - c.toNat) % 2 ^ 32 := by
  rw [diffWord, BitVec.toNat_ofInt]
  omega

theorem toNat_borrowOut : (borrowOut x y c).toNat = if (x.toNat : Int) - y.toNat - c.toNat < 0 then 1 else 0 := by
  simp only [borrowOut, flagBit, BitVec.toNat_ofBool]
  split <;> simp [*]

/-- An addition link loses nothing: its carry weighs 2^32 (R121). -/
theorem sumWord_add_carryOut :
    (sumWord x y c).toNat + 2 ^ 32 * (carryOut x y c).toNat = x.toNat + y.toNat + c.toNat := by
  rw [toNat_sumWord, toNat_carryOut]
  exact Nat.mod_add_div _ _

/-- A subtraction link loses nothing: its borrow weighs −2^32 (R122). -/
theorem diffWord_sub_borrowOut :
    ((diffWord x y c).toNat : Int) - 2 ^ 32 * (borrowOut x y c).toNat = (x.toNat : Int) - y.toNat - c.toNat := by
  rw [toNat_diffWord, toNat_borrowOut]
  split <;> omega

end Links

/-! ### Chains of links (R129) -/

theorem length_addChain {x y : Limbs} (h : x.length = y.length) (c : Bit) : (addChain x y c).1.length = x.length := by
  induction x generalizing y c with
  | nil => simp [addChain]
  | cons w x ih =>
    obtain ⟨v, y, rfl⟩ := List.exists_cons_of_length_eq_add_one h.symm
    simp [addChain, ih (Nat.succ.inj h)]

theorem length_subChain {x y : Limbs} (h : x.length = y.length) (c : Bit) : (subChain x y c).1.length = x.length := by
  induction x generalizing y c with
  | nil => simp [subChain]
  | cons w x ih =>
    obtain ⟨v, y, rfl⟩ := List.exists_cons_of_length_eq_add_one h.symm
    simp [subChain, ih (Nat.succ.inj h)]

/-- A chain of addition links loses nothing: its last carry weighs 2 to the width. -/
theorem uval_addChain {x y : Limbs} (h : x.length = y.length) (c : Bit) :
    uval (addChain x y c).1 + 2 ^ (32 * x.length) * (addChain x y c).2.toNat = uval x + uval y + c.toNat := by
  induction x generalizing y c with
  | nil =>
    obtain rfl := List.length_eq_zero_iff.mp h.symm
    simp [addChain]
  | cons w x ih =>
    obtain ⟨v, y, rfl⟩ := List.exists_cons_of_length_eq_add_one h.symm
    have hlink := sumWord_add_carryOut w v c
    have hrest := ih (Nat.succ.inj h) (carryOut w v c)
    rw [addChain, List.length_cons, two_pow_width_succ, uval_cons, uval_cons, uval_cons]
    linear_combination hlink + 2 ^ 32 * hrest

/-- A chain of subtraction links loses nothing: its last borrow weighs minus 2 to the width. -/
theorem uval_subChain {x y : Limbs} (h : x.length = y.length) (c : Bit) :
    (uval (subChain x y c).1 : Int) - 2 ^ (32 * x.length) * (subChain x y c).2.toNat =
      (uval x : Int) - uval y - c.toNat := by
  induction x generalizing y c with
  | nil =>
    obtain rfl := List.length_eq_zero_iff.mp h.symm
    simp [subChain]
  | cons w x ih =>
    obtain ⟨v, y, rfl⟩ := List.exists_cons_of_length_eq_add_one h.symm
    have hlink := diffWord_sub_borrowOut w v c
    have hrest := ih (Nat.succ.inj h) (borrowOut w v c)
    have hwidth : (2 : Int) ^ (32 * (x.length + 1)) = 2 ^ 32 * 2 ^ (32 * x.length) := by
      exact_mod_cast two_pow_width_succ x.length
    rw [subChain, List.length_cons, hwidth, uval_cons, uval_cons, uval_cons]
    push_cast
    linear_combination hlink + 2 ^ 32 * hrest

section Chains

variable {x y : Limbs} (h : x.length = y.length)
include h

/-- The limbs of an addition chain are the sum modulo 2 to the width, and its carry the quotient. -/
theorem addChain_eq_mod_div :
    uval (addChain x y 0).1 = (uval x + uval y) % 2 ^ (32 * x.length) ∧
      (addChain x y 0).2.toNat = (uval x + uval y) / 2 ^ (32 * x.length) := by
  have hsum := uval_addChain h 0
  have hlt := length_addChain h 0 ▸ uval_lt (addChain x y 0).1
  obtain ⟨hdiv, hmod⟩ := (Nat.div_mod_unique (by positivity)).mpr ⟨hsum, hlt⟩
  exact ⟨hmod.symm, hdiv.symm⟩

/-- A subtraction chain without a borrow in: its limbs are the difference, but for the borrow out. -/
theorem uval_subChain_zero :
    (uval (subChain x y 0).1 : Int) - 2 ^ (32 * x.length) * (subChain x y 0).2.toNat = (uval x : Int) - uval y :=
  (uval_subChain h 0).trans (sub_zero _)

theorem uval_subChain_lt (c : Bit) : (uval (subChain x y c).1 : Int) < 2 ^ (32 * x.length) := by
  exact_mod_cast length_subChain h c ▸ uval_lt (subChain x y c).1

/-- The limbs of a subtraction chain are the difference modulo 2 to the width. -/
theorem uval_subChain_eq_emod :
    (uval (subChain x y 0).1 : Int) = ((uval x : Int) - uval y) % 2 ^ (32 * x.length) := by
  rw [← uval_subChain_zero h, Int.sub_mul_emod_self_left, Int.emod_eq_of_lt (by positivity) (uval_subChain_lt h 0)]

/-- The borrow out of the last limb is the unsigned comparison: the difference limbs lie below 2 to the width, so the sign of
the whole is the borrow's. -/
theorem subChain_borrow_eq_one_iff : (subChain x y 0).2 = 1 ↔ uval x < uval y := by
  have hdiff := uval_subChain_zero h
  have hlt := uval_subChain_lt h 0
  rcases BitVec.eq_zero_or_eq_one (subChain x y 0).2 with hb | hb
  · rw [hb, BitVec.toNat_ofNat] at hdiff
    rw [hb]
    exact iff_of_false (by decide) (by omega)
  · rw [hb, BitVec.toNat_ofNat] at hdiff
    exact iff_of_true hb (by omega)

end Chains

/-! ### Leading zeros (R127) -/

section LeadingZeros

variable {x : Word} (hx : x ≠ 0)
include hx

/-- The count of zeros above the highest set bit, and that bit's index, make 31. -/
theorem leadingZeros_add_log2 : leadingZeros x + Nat.log2 x.toNat = 31 := by
  have hlog : Nat.log2 x.toNat < 32 := (Nat.log2_lt (BitVec.toNat_pos_of_ne_zero hx).ne').mpr x.isLt
  rw [leadingZeros, if_neg hx]
  omega

/-- Fewer than k leading zeros: one of the top k bits is set. -/
theorem leadingZeros_lt_iff {k : Nat} (hk : k ≤ 32) : leadingZeros x < k ↔ 2 ^ (32 - k) ≤ x.toNat := by
  have hlog := leadingZeros_add_log2 hx
  rw [← Nat.le_log2 (BitVec.toNat_pos_of_ne_zero hx).ne']
  omega

/-- Shifting n leading zeros out leaves n fewer. -/
theorem leadingZeros_shiftLeft {n : Nat} (hn : x.toNat * 2 ^ n < 2 ^ 32) :
    x <<< n ≠ 0 ∧ n + leadingZeros (x <<< n) = leadingZeros x := by
  have hpos : 0 < x.toNat := BitVec.toNat_pos_of_ne_zero hx
  have hval : (x <<< n).toNat = x.toNat * 2 ^ n := by
    rw [BitVec.toNat_shiftLeft, Nat.shiftLeft_eq, Nat.mod_eq_of_lt hn]
  have hne : x <<< n ≠ 0 := by
    rw [Ne, BitVec.toNat_eq, hval]
    exact (Nat.mul_pos hpos (by positivity)).ne'
  have hlog : Nat.log2 (x.toNat * 2 ^ n) = Nat.log2 x.toNat + n := by
    rw [Nat.log2_eq_iff (by positivity), pow_add, add_right_comm, pow_add]
    have hlo := Nat.log2_self_le hpos.ne'
    have hhi : x.toNat < 2 ^ (Nat.log2 x.toNat + 1) := Nat.lt_log2_self
    exact ⟨by gcongr, by gcongr⟩
  have hx31 := leadingZeros_add_log2 hx
  have hs31 := leadingZeros_add_log2 hne
  rw [hval, hlog] at hs31
  exact ⟨hne, by omega⟩

/-- The bit at 31 less the count is the highest one set (R127). -/
theorem getLsbD_leadingZeros :
    x.getLsbD (31 - leadingZeros x) = true ∧ ∀ j, 31 - leadingZeros x < j → x.getLsbD j = false := by
  have hlog := leadingZeros_add_log2 hx
  have hindex : 31 - leadingZeros x = Nat.log2 x.toNat := by omega
  simp only [hindex, ← BitVec.testBit_toNat]
  refine ⟨Nat.testBit_log2 (BitVec.toNat_pos_of_ne_zero hx).ne', fun j hj => Nat.testBit_lt_two_pow ?_⟩
  calc x.toNat < 2 ^ (Nat.log2 x.toNat + 1) := Nat.lt_log2_self
    _ ≤ 2 ^ j := Nat.pow_le_pow_right (by decide) hj

end LeadingZeros

theorem leadingZeros_le (x : Word) : leadingZeros x ≤ 32 := by
  unfold leadingZeros
  split <;> omega

/-! ### Range halving (R128) -/

/-- The mask of the halving steps tests for zero: x − 1 sets a top bit that x does not have for x = 0 alone. -/
theorem signMask_zeroTest (x : Word) : signMask ((x - 1) &&& ~~~x) = if x = 0 then BitVec.allOnes 32 else 0#32 := by
  by_cases hx : x = 0
  · subst hx
    decide
  · have hpred : (x - 1).toNat = x.toNat - 1 :=
      BitVec.toNat_sub_of_le (BitVec.le_def.mpr (BitVec.toNat_pos_of_ne_zero hx))
    have hmsb : ((x - 1) &&& ~~~x).msb = false := by
      rw [BitVec.msb_and, BitVec.msb_not]
      cases htop : x.msb
      · have hlt := BitVec.msb_eq_false_iff_two_mul_lt.mp htop
        rw [BitVec.msb_eq_false_iff_two_mul_lt.mpr (by omega), Bool.false_and]
      · exact Bool.and_false _
    rw [signMask, hmsb, if_neg hx]
    rfl

theorem ushiftRight_eq_zero_iff (w : Word) (k : Nat) : w >>> k = 0 ↔ w.toNat < 2 ^ k := by
  rw [BitVec.toNat_eq, BitVec.toNat_ushiftRight, Nat.shiftRight_eq_div_pow]
  simp [Nat.div_eq_zero_iff]

/-- A halving step counts and drops the top `sh` bits when they are all 0, and else leaves count and word (R128). -/
theorem halvingStep_eq_ite (c w : Word) (sh : Nat) :
    halvingStep (c, w) sh =
      if w.toNat < 2 ^ (32 - sh) then (c + BitVec.ofNat 32 sh, w <<< sh) else (c, w) := by
  simp only [halvingStep, signMask_zeroTest, ushiftRight_eq_zero_iff]
  split
  · simp only [BitVec.and_allOnes, BitVec.not_allOnes, BitVec.and_zero, BitVec.or_zero]
  · simp only [BitVec.and_zero, BitVec.add_zero, BitVec.not_zero, BitVec.and_allOnes, BitVec.zero_or]

/-- Where a halving of the word `x` stands before its steps below `bound`: fewer than `bound` zeros are still to be counted,
and with those counted they are the leading zeros of `x`. -/
structure HalvingState (x : Word) (bound : Nat) (t : Word × Word) : Prop where
  ne_zero : t.2 ≠ 0
  lt_bound : leadingZeros t.2 < bound
  count : t.1.toNat + leadingZeros t.2 = leadingZeros x

theorem halvingState_start {x : Word} (hx : x ≠ 0) : HalvingState x 32 (0, x) where
  ne_zero := hx
  lt_bound := by
    have hlog : leadingZeros x + Nat.log2 x.toNat = 31 := leadingZeros_add_log2 hx
    change leadingZeros x < 32
    omega
  count := Nat.zero_add _

/-- A halving step halves the bound. -/
theorem HalvingState.step {x : Word} {t : Word × Word} {sh : Nat} (ht : HalvingState x (2 * sh) t) (hsh : sh ≤ 16) :
    HalvingState x sh (halvingStep t sh) := by
  obtain ⟨c, w⟩ := t
  obtain ⟨hne, hlt, hcount⟩ := ht
  dsimp only at hne hlt hcount
  have hiff := leadingZeros_lt_iff hne (show sh ≤ 32 by omega)
  rw [halvingStep_eq_ite]
  split
  · next h =>
    have hfit : w.toNat * 2 ^ sh < 2 ^ 32 := by
      calc w.toNat * 2 ^ sh < 2 ^ (32 - sh) * 2 ^ sh := by gcongr
        _ = 2 ^ 32 := by rw [← pow_add]; congr 1; omega
    obtain ⟨hne', hshift⟩ := leadingZeros_shiftLeft hne hfit
    have hle := leadingZeros_le x
    have hsum : (c + BitVec.ofNat 32 sh).toNat = c.toNat + sh := by
      rw [BitVec.toNat_add, BitVec.toNat_ofNat]
      omega
    exact
      { ne_zero := hne'
        lt_bound := by dsimp only; omega
        count := by dsimp only; omega }
  · next h => exact ⟨hne, hiff.mpr (Nat.not_lt.mp h), hcount⟩

/-- The five steps take the bound from 32 to 1. -/
theorem halvingState_end {x : Word} (hx : x ≠ 0) : HalvingState x 1 ([16, 8, 4, 2, 1].foldl halvingStep (0, x)) := by
  have h16 := (halvingState_start hx).step (sh := 16) (by decide)
  have h8 := h16.step (sh := 8) (by decide)
  have h4 := h8.step (sh := 4) (by decide)
  have h2 := h4.step (sh := 2) (by decide)
  exact h2.step (sh := 1) (by decide)

/-- Of a word that is not zero the five steps count all leading zeros, and the last test adds none (R128). -/
theorem leadingZerosByHalving_of_ne_zero {x : Word} (hx : x ≠ 0) :
    (leadingZerosByHalving x).toNat = leadingZeros x := by
  obtain ⟨hne, hlt, hcount⟩ := halvingState_end hx
  simp only [leadingZerosByHalving, signMask_zeroTest, if_neg hne, BitVec.and_zero, BitVec.add_zero]
  omega

/-! ### A step always answers (R225) -/

section WasReset

variable {s t : State}

/-- No command takes the reset back. -/
theorem exec_wasReset {i : Instr} (h : exec i s = .next t) : t.wasReset = s.wasReset := by
  have haccept (w : Width) (budget : Word) : (acceptReduce w budget s).wasReset = s.wasReset := by
    rcases acceptReduce_faults_or_starts w budget s with ⟨c, hc⟩ | ⟨i, k, n, b, -, -, hs⟩
    · rw [hc, raiseFault_wasReset]
    · rw [hs]
  cases i with
  | fitsBelow w =>
    rcases execFitsBelow_cases w s with ⟨-, hw⟩ | ⟨-, hw⟩ <;> obtain rfl := Host.Outcome.next.inj (hw.symm.trans h)
    · rfl
    · rfl
  | reduce w =>
    obtain rfl := Host.Outcome.next.inj h
    exact haccept w s.sReg
  | reduce254 w =>
    rcases execReduce254_cases w s with ⟨-, hw⟩ | ⟨-, hw⟩ <;> obtain rfl := Host.Outcome.next.inj (hw.symm.trans h)
    · exact haccept _ _
    · rfl
  | _ =>
    obtain rfl := Host.Outcome.next.inj h
    rfl

theorem writeCmd_wasReset {v : Word} (h : writeCmd v s = .next t) : t.wasReset = s.wasReset := by
  rcases writeCmd_cases h with ⟨-, i, -, hi⟩ | ⟨-, c, -, hc⟩ | ⟨-, hc⟩ | ⟨-, hc⟩
  · exact exec_wasReset hi.symm
  all_goals
    obtain rfl := Host.Outcome.next.inj hc
    rfl

theorem engineStep_wasReset (s : State) : (engineStep s).wasReset = s.wasReset := by
  have happly (r : Iteration) : (applyIteration r s).wasReset = s.wasReset := by cases r <;> rfl
  rcases engineStep_cases s with ⟨-, h⟩ | ⟨-, h⟩ | ⟨-, h⟩ <;> simp [h, happly]

theorem waitEvent_wasReset (s : State) : (waitEvent s).wasReset = s.wasReset := by
  unfold waitEvent
  split <;> rfl

/-- After an event the block has been reset, if it had been before or the event is the reset. -/
theorem eventResult_wasReset {e : Event} (h : eventResult e s = .next t) (hw : s.wasReset = true ∨ e = .reset) :
    t.wasReset = true := by
  rcases hw with hw | rfl
  · rw [← hw]
    rcases eventResult_cases h with ⟨r, -, rfl⟩ | ⟨r, v, -, -, rfl⟩ | ⟨v, -, hv⟩ | ⟨-, rfl⟩ | ⟨-, rfl⟩ | ⟨-, rfl⟩ | ⟨-, rfl⟩
    · rfl
    · exact writeReg_wasReset r v s
    · exact writeCmd_wasReset hv
    · rfl
    · exact waitEvent_wasReset s
    · exact engineStep_wasReset s
    · exact hw.symm
  · obtain rfl := Host.Outcome.next.inj h
    rfl

/-- A step's next state is that of a block that has been reset. -/
theorem step_wasReset (h : step s = .next t) : t.wasReset = true := by
  rcases step_cases h with ⟨-, hw, rfl⟩ | ⟨e, rest, -, hw, he⟩
  · rw [engineStep_wasReset, hw]
  · exact eventResult_wasReset he hw

end WasReset

/-- A write to CMD answers in every block state (R222). -/
theorem writeCmd_answers_next (v : Word) (s : State) : ∃ t, writeCmd v s = .next t := by
  rcases writeCmd_cases (rfl : writeCmd v s = _) with ⟨-, i, -, h⟩ | ⟨-, c, -, h⟩ | ⟨-, h⟩ | ⟨-, h⟩ <;> rw [h]
  · exact exec_answers_next i s
  all_goals exact ⟨_, rfl⟩

theorem eventResult_answers_next (e : Event) (s : State) : ∃ t, eventResult e s = .next t := by
  cases e with
  | write r v =>
    change ∃ t, hostWrite r v s = .next t
    unfold hostWrite
    split
    · exact writeCmd_answers_next v s
    · exact ⟨_, rfl⟩
  | _ => exact ⟨_, rfl⟩

/-- A block that has been reset has a next state (R225). -/
theorem step_answers_next {s : State} (hw : s.wasReset = true) : ∃ t, step s = .next t := by
  cases hi : s.inbox with
  | nil => exact ⟨_, step_of_inbox_nil hw hi⟩
  | cons e rest => exact step_of_inbox_cons hw hi ▸ eventResult_answers_next e _

/-- An idle engine has no step (R231). -/
theorem engineStep_of_idle {s : State} (h : s.eng.lstate = .idle) : engineStep s = s := by
  simp [engineStep, h]

/-- Before the first reset nothing but a reset is taken (R253; notes/assumptions/6.md). -/
theorem step_before_first_reset {s : State} (hw : s.wasReset = false) (hi : ∀ rest, s.inbox ≠ .reset :: rest) :
    step s = .refused .beforeFirstReset := by
  cases he : s.inbox with
  | nil => simp [step, nextEvent, he, hw]
  | cons e rest =>
    have hne : e ≠ .reset := fun h => hi rest (h ▸ he)
    simp [step, nextEvent, he, hw, hne]

/-! ### The statements -/

/-- Settles O8: `step_answers_next` and `step_wasReset`; then the idle engine, and the block before its first reset. -/
theorem stepAlwaysAnswersAfterReset : Obligations.StepAlwaysAnswersAfterReset := by
  refine fun s => ⟨fun hw => ?_, engineStep_of_idle, fun hw hl hi => ?_, fun hw hl rest hi => ?_, step_before_first_reset⟩
  · obtain ⟨t, ht⟩ := step_answers_next hw
    exact ⟨t, ht, step_wasReset ht⟩
  · rw [step_of_inbox_nil hw hi, engineStep_of_idle hl]
  · have hrest : engineStep { s with inbox := rest } = { s with inbox := rest } := engineStep_of_idle hl
    rw [step_of_inbox_cons hw hi, eventResult, hrest]

/-- Settles O16: the word zero by evaluation, any other by the five halving steps. -/
theorem rangeHalvingCountsLeadingZeros : Obligations.RangeHalvingCountsLeadingZeros := by
  intro x
  by_cases hx : x = 0
  · subst hx
    decide
  · exact leadingZerosByHalving_of_ne_zero hx

/-- Settles O17, by the induction along the limbs in `uval_addChain` and `uval_subChain`. -/
theorem carryAndBorrowChainsAreExact : Obligations.CarryAndBorrowChainsAreExact :=
  ⟨fun _ _ h => ⟨length_addChain h 0, addChain_eq_mod_div h⟩,
    fun _ _ h => ⟨length_subChain h 0, uval_subChain_eq_emod h, subChain_borrow_eq_one_iff h⟩, fusedProduct_words⟩

/-- Settles O9, by what one addition link delivers. -/
theorem addcarryGivesSumAndCarry : Obligations.AddcarryGivesSumAndCarry :=
  ⟨decode_encode (i := .addcarry) rfl, fun _ => ⟨_, _, rfl, toNat_sumWord _ _ _, toNat_carryOut _ _ _⟩⟩

/-- Settles O10, by what one subtraction link delivers. -/
theorem subborrowGivesDifferenceAndBorrow : Obligations.SubborrowGivesDifferenceAndBorrow :=
  ⟨decode_encode (i := .subborrow) rfl, fun _ => ⟨_, _, rfl, toNat_diffWord _ _ _, toNat_borrowOut _ _ _⟩⟩

/-- Settles O11: the fused product with both addends 0. -/
theorem umulGivesExactProduct : Obligations.UmulGivesExactProduct :=
  ⟨decode_encode (i := .umul) rfl, fun s => ⟨_, _, rfl, fusedProduct_words s.xw s.yw 0 0⟩⟩

/-- Settles O12: the fused product with the second addend 0. -/
theorem umulAddGivesExactSum : Obligations.UmulAddGivesExactSum :=
  ⟨decode_encode (i := .umulAdd) rfl, fun s => ⟨_, _, rfl, fusedProduct_words s.xw s.yw s.z1w 0⟩⟩

/-- Settles O13: the fused product. -/
theorem umulAdd2GivesExactSum : Obligations.UmulAdd2GivesExactSum :=
  ⟨decode_encode (i := .umulAdd2) rfl, fun s => ⟨_, _, rfl, fusedProduct_words s.xw s.yw s.z1w s.z2w⟩⟩

/-- Settles O14: the top bit is bit 31. -/
theorem signMaskSpreadsTopBit : Obligations.SignMaskSpreadsTopBit :=
  ⟨decode_encode (i := .signMask) rfl, fun _ => rfl⟩

/-- Settles O15: the count fits RN, and `getLsbD_leadingZeros` places the highest set bit. -/
theorem leadingZeroCountFindsHighestBit : Obligations.LeadingZeroCountFindsHighestBit := by
  refine ⟨decode_encode (i := .leadingZeroCount) rfl, fun s => ⟨_, rfl, fun hx => ?_, fun hx => ?_⟩⟩
  · rw [hx]
    rfl
  · have hlog := leadingZeros_add_log2 hx
    have hn : (putRn (leadingZeros s.xw) s).rn.toNat = leadingZeros s.xw := by
      rw [putRn_rn, BitVec.toNat_ofNat]
      omega
    rw [hn]
    exact ⟨by omega, getLsbD_leadingZeros hx⟩

end Sys2Proof.Machine

/-! # The fixed-width integer unit (spec/41_fixed_width_integer.md R140 to R163) -/

namespace Sys2Proof.Machine

/-! ### The values of shifted sums and differences (R156, R159, R161, R163) -/

section Shifted

variable {x y : Limbs} (h : x.length = y.length) (s : Nat)
include h

/-- The shifted sum is the residue itself, below 2 to the width (R156). -/
theorem uval_addShifted : uval (addShifted x y s) = (uval x + uval y * 2 ^ s) % 2 ^ (32 * x.length) := by
  have hmod : (uval (addShifted x y s) : Int) % 2 ^ (32 * x.length) = (uval x + uval y * 2 ^ s) % 2 ^ (32 * x.length) :=
    addShifted_modEq x y s h
  have hlt := length_addShifted x y s ▸ uval_lt (addShifted x y s)
  rw [← Nat.mod_eq_of_lt hlt]
  exact_mod_cast hmod

/-- The shifted difference is the residue itself, from 0 to below 2 to the width (R159). -/
theorem uval_subShifted :
    (uval (subShifted x y s) : Int) = ((uval x : Int) - uval y * 2 ^ s) % 2 ^ (32 * x.length) := by
  have hlt : (uval (subShifted x y s) : Int) < 2 ^ (32 * x.length) := by
    exact_mod_cast length_subShifted x y s ▸ uval_lt (subShifted x y s)
  rw [← subShifted_modEq x y s h, Int.emod_eq_of_lt (by positivity) hlt]

/-- Subtracting what was added restores the array, also when the sum wrapped (R161). -/
theorem subShifted_addShifted : subShifted (addShifted x y s) y s = x := by
  have hlt : (uval x : Int) < 2 ^ (32 * x.length) := by exact_mod_cast uval_lt x
  refine uval_inj (by simp) (Int.ofNat_inj.mp ?_)
  rw [uval_subShifted (by simpa using h), length_addShifted, uval_addShifted h]
  push_cast
  rw [Int.emod_sub_emod, add_sub_cancel_right, Int.emod_eq_of_lt (by positivity) hlt]

variable {l : Nat} (hl : l ≤ x.length)
include hl

/-- The low limbs of a shifted sum are the shifted sum of the low limbs (R163). -/
theorem take_addShifted : (addShifted x y s).take l = addShifted (x.take l) (y.take l) s := by
  have hdvd : 2 ^ (32 * l) ∣ 2 ^ (32 * x.length) := pow_dvd_pow 2 (by omega)
  have hlen : (x.take l).length = l := List.length_take_of_le hl
  refine uval_inj (by simp) ?_
  rw [uval_addShifted (by simp [h]), hlen, uval_take, uval_take, uval_take, uval_addShifted h,
    Nat.mod_mod_of_dvd _ hdvd]
  exact ((Nat.mod_modEq _ _).add ((Nat.mod_modEq _ _).mul_right _)).symm

/-- The low limbs of a shifted difference are the shifted difference of the low limbs (R163). -/
theorem take_subShifted : (subShifted x y s).take l = subShifted (x.take l) (y.take l) s := by
  have hdvd : (2 : Int) ^ (32 * l) ∣ 2 ^ (32 * x.length) := pow_dvd_pow 2 (by omega)
  have hlen : (x.take l).length = l := List.length_take_of_le hl
  refine uval_inj (by simp) (Int.ofNat_inj.mp ?_)
  rw [uval_subShifted (by simp [h]), hlen, uval_take, uval_take, uval_take]
  push_cast
  rw [uval_subShifted h, Int.emod_emod_of_dvd _ hdvd]
  exact ((Int.mod_modEq _ _).sub ((Int.mod_modEq _ _).mul_right _)).symm

end Shifted

/-! ### The bits of a limb array, and the shifted limbs (R157) -/

/-- Bit j of the value is bit j mod 32 of limb j / 32 (R15). -/
theorem testBit_uval (x : Limbs) (j : Nat) : (uval x).testBit j = (x.getD (j / 32) 0).getLsbD (j % 32) := by
  induction x generalizing j with
  | nil => simp
  | cons w x ih =>
    rw [uval_cons, Nat.add_comm, Nat.testBit_two_pow_mul_add _ w.isLt]
    split
    · next hj => rw [Nat.div_eq_of_lt hj, Nat.mod_eq_of_lt hj, List.getD_cons_zero, BitVec.testBit_toNat]
    · next hj =>
      obtain ⟨k, rfl⟩ := Nat.exists_eq_add_of_le' (Nat.le_of_not_lt hj)
      rw [Nat.add_sub_cancel, ih, Nat.add_div_right k (by decide), Nat.add_mod_right, List.getD_cons_succ]

/-- Limb i of the shifted array holds the bits of `b · 2^s` from 32·i on: with s = 32·q + r, its upper 32 − r bits come from
limb i − q, and its lower r from the limb below that (R157). -/
theorem shiftedLimb_eq (b : Limbs) (s i : Nat) :
    shiftedLimb b s i = BitVec.ofNat 32 (uval b * 2 ^ s / 2 ^ (32 * i)) := by
  refine BitVec.eq_of_getLsbD_eq fun k hk => ?_
  have hs : 32 * (s / 32) + s % 32 = s := Nat.div_add_mod s 32
  simp only [BitVec.getLsbD_ofNat, Nat.testBit_div_two_pow, Nat.testBit_mul_two_pow, testBit_uval, shiftedLimb, hk,
    decide_true, Bool.true_and]
  by_cases hi : i < s / 32
  · have hbelow : ¬ s ≤ k + 32 * i := by omega
    simp [hi, hbelow]
  rw [if_neg hi, BitVec.getLsbD_or, BitVec.getLsbD_shiftLeft]
  by_cases hr : s % 32 ≤ k
  · have hdiv : (k + 32 * i - s) / 32 = i - s / 32 := by omega
    have hmod : (k + 32 * i - s) % 32 = k - s % 32 := by omega
    have habove : s ≤ k + 32 * i := by omega
    have hout : 32 ≤ 32 - s % 32 + k := by omega
    rw [hdiv, hmod]
    split <;> simp [hk, habove, hout, Nat.not_lt.mpr hr, -BitVec.getLsbD_eq_getElem]
  · by_cases hq : i = s / 32
    · have hbelow : ¬ s ≤ k + 32 * (s / 32) := by omega
      simp [hq, Nat.lt_of_not_le hr, hbelow]
    · have hdiv : (k + 32 * i - s) / 32 = i - s / 32 - 1 := by omega
      have hmod : (k + 32 * i - s) % 32 = 32 - s % 32 + k := by omega
      have habove : s ≤ k + 32 * i := by omega
      have hhi : 0 < s % 32 ∧ 1 ≤ i - s / 32 := by omega
      rw [if_pos hhi, hdiv, hmod]
      simp [Nat.lt_of_not_le hr, habove]

theorem natLimbs_eq_map (l n : Nat) :
    natLimbs l n = (List.range l).map fun i => BitVec.ofNat 32 (n / 2 ^ (32 * i)) := by
  induction l generalizing n with
  | zero => rfl
  | succ l ih =>
    rw [natLimbs, ih, List.range_succ_eq_map]
    simp [Nat.div_div_eq_div_mul, two_pow_width_succ, Function.comp_def]

/-- Below the width, the limbs taken one by one are the shifted array (R142, R157). -/
theorem shiftedLimbs_eq_shiftLeft {b : Limbs} {s : Nat} (h : s < bitWidth b) : shiftedLimbs b s = shiftLeft b s := by
  rw [shiftLeft, if_neg (Nat.not_le.mpr h), natLimbs_eq_map, shiftedLimbs]
  exact List.map_congr_left fun i _ => shiftedLimb_eq b s i

/-! ### The limb loop (R157) -/

theorem limbsOf_uval (x : Limbs) : limbsOf x.length (uval x) = x := by
  have hlt : (uval x : Int) < 2 ^ (32 * x.length) := by exact_mod_cast uval_lt x
  refine uval_inj (by simp) (Int.ofNat_inj.mp ?_)
  rw [uval_limbsOf, Int.emod_eq_of_lt (by positivity) hlt]

/-- At and past the width nothing of the operand is left (R142). -/
theorem uval_shiftLeft_of_width_le {y : Limbs} {s : Nat} (hs : bitWidth y ≤ s) : uval (shiftLeft y s) = 0 := by
  rw [shiftLeft, if_pos hs]
  exact uval_replicate_zero _

section LimbLoop

variable {x y : Limbs} (h : x.length = y.length)
include h

/-- With its last carry dropped, an addition chain gives the sum's limbs. -/
theorem addChain_eq_limbsOf : (addChain x y 0).1 = limbsOf x.length ((uval x : Int) + uval y) := by
  refine uval_inj (by simp [length_addChain h]) (Int.ofNat_inj.mp ?_)
  rw [(addChain_eq_mod_div h).1, uval_limbsOf]
  norm_cast

/-- With its last borrow dropped, a subtraction chain gives the difference's limbs. -/
theorem subChain_eq_limbsOf : (subChain x y 0).1 = limbsOf x.length ((uval x : Int) - uval y) := by
  refine uval_inj (by simp [length_subChain h]) (Int.ofNat_inj.mp ?_)
  rw [uval_subChain_eq_emod h, uval_limbsOf]

theorem addShiftedByLimbs_eq (s : Nat) : addShiftedByLimbs x y s = addShifted x y s := by
  have hwidth : bitWidth x = bitWidth y := congrArg (32 * ·) h
  unfold addShiftedByLimbs addShifted
  split
  · next hs => rw [uval_shiftLeft_of_width_le (hwidth ▸ hs), Nat.cast_zero, add_zero, limbsOf_uval]
  · next hs =>
    rw [shiftedLimbs_eq_shiftLeft (hwidth ▸ Nat.lt_of_not_le hs), addChain_eq_limbsOf (by simpa using h)]

theorem subShiftedByLimbs_eq (s : Nat) : subShiftedByLimbs x y s = subShifted x y s := by
  have hwidth : bitWidth x = bitWidth y := congrArg (32 * ·) h
  unfold subShiftedByLimbs subShifted
  split
  · next hs => rw [uval_shiftLeft_of_width_le (hwidth ▸ hs), Nat.cast_zero, sub_zero, limbsOf_uval]
  · next hs =>
    rw [shiftedLimbs_eq_shiftLeft (hwidth ▸ Nat.lt_of_not_le hs), subChain_eq_limbsOf (by simpa using h)]

end LimbLoop

/-! ### The scan of `bit_length` (R148) -/

/-- The magnitude's limbs are the differences between the array's limbs and its sign mask (R147, R148). -/
theorem magnitudeLimbs_eq_map_xor (x : Limbs) : magnitudeLimbs x = x.map (· ^^^ signMask (x.getLastD 0)) := by
  unfold magnitudeLimbs isNegative signMask
  split
  · simp only [BitVec.xor_allOnes]
  · simp

/-- The highest set bit of a value in two parts is that of the upper part, when it has one. -/
theorem log2_add_two_pow_mul {a v n : Nat} (ha : a < 2 ^ n) (hv : v ≠ 0) :
    Nat.log2 (a + 2 ^ n * v) = n + Nat.log2 v := by
  have hlo := Nat.log2_self_le hv
  have hhi : v + 1 ≤ 2 ^ (Nat.log2 v + 1) := Nat.lt_log2_self
  rw [Nat.log2_eq_iff (by positivity), pow_add, add_assoc, pow_add]
  constructor
  · calc 2 ^ n * 2 ^ v.log2 ≤ 2 ^ n * v := by gcongr
      _ ≤ a + 2 ^ n * v := Nat.le_add_left ..
  · calc a + 2 ^ n * v < 2 ^ n * (v + 1) := by rw [mul_add_one]; omega
      _ ≤ 2 ^ n * 2 ^ (v.log2 + 1) := by gcongr

/-- The scan from the top limb finds the least m with the differences from the mask below 2^m (R148). -/
theorem scanDown_reverse_le_iff (m : Word) (x : Limbs) (k : Nat) :
    scanDown m x.reverse ≤ k ↔ uval (x.map (· ^^^ m)) < 2 ^ k := by
  induction x using List.reverseRecOn with
  | nil => simp [scanDown]
  | append_singleton x w ih =>
    rw [List.reverse_append, List.reverse_singleton, List.singleton_append, scanDown, List.map_append, uval_append,
      List.length_map, List.map_singleton, uval_cons, uval_nil, mul_zero, add_zero]
    by_cases hw : w ^^^ m = 0
    · simp [hw, ih]
    · have hv : (w ^^^ m).toNat ≠ 0 := (BitVec.toNat_pos_of_ne_zero hw).ne'
      have hlow := uval_lt (x.map (· ^^^ m))
      have hlz := leadingZeros_add_log2 hw
      rw [List.length_map] at hlow
      rw [if_pos hw, ← Nat.log2_lt (by positivity), log2_add_two_pow_mul hlow hv, List.length_reverse]
      omega

/-! ### Signs and bounds (R147, R150, R153, R163) -/

/-- A non-negative array is its own magnitude; a negative one has its top bit set (R15, R147). -/
theorem sval_cases (x : Limbs) :
    (0 ≤ sval x ∧ magnitudeLimbs x = x) ∨ (sval x < 0 ∧ 2 ^ (32 * x.length - 1) ≤ uval x) := by
  have hsign := isNegative_iff_sval x
  by_cases hx : isNegative x = true
  · have hne : x ≠ [] := fun h => by simp [h] at hx
    have hpos : 0 < x.length := List.length_pos_iff.mpr hne
    have hhalf : 2 ^ (32 * x.length) = 2 * 2 ^ (32 * x.length - 1) := (mul_pow_sub_one (by omega) 2).symm
    have hvalue := (isNegative_iff x hne).mp hx
    exact .inr ⟨hsign.mp hx, by omega⟩
  · exact .inl ⟨not_lt.mp (mt hsign.mpr hx), if_neg hx⟩

theorem bitLength_eq_zero_iff (x : Limbs) : bitLength x = 0 ↔ sval x = 0 ∨ sval x = -1 := by
  have hmag := uval_magnitudeLimbs x
  rw [← Nat.le_zero, bitLength_le_iff]
  split at hmag <;> omega

/-- Within the array, `fits_below` is the bit length's bound on non-negative values: a negative value has a bit set at or
above every bound (R163). -/
theorem fitsBelow_iff_bitLength {x : Limbs} {s : Nat} (h0 : 0 < s) (hs : s ≤ x.length) :
    fitsBelow x s = true ↔ 0 ≤ sval x ∧ bitLength x ≤ 32 * s - 1 := by
  rw [fitsBelow_iff x s h0 hs, bitLength_le_iff]
  rcases sval_cases x with ⟨hsign, hmag⟩ | ⟨hsign, htop⟩
  · rw [hmag, and_iff_right hsign]
  · have hbound : 2 ^ (32 * s - 1) ≤ 2 ^ (32 * x.length - 1) := Nat.pow_le_pow_right (by decide) (by omega)
    exact iff_of_false (by omega) fun h => absurd h.1 (by omega)

/-- The test of `fits_below` on the limbs: those from s on are 0, and the top bit of limb s − 1 is clear (R151). -/
theorem fitsBelow_iff_limbs (x : Limbs) (s : Nat) :
    fitsBelow x s = true ↔
      (∀ i, s ≤ i → i < x.length → x.getD i 0 = 0) ∧ (x.getD (s - 1) 0).getLsbD 31 = false := by
  have hdrop : (∀ w ∈ x.drop s, w = 0) ↔ ∀ i, s ≤ i → i < x.length → x.getD i 0 = 0 := by
    simp only [List.mem_drop_iff_getElem, forall_exists_index]
    constructor
    · intro h i hs hi
      obtain ⟨j, rfl⟩ := Nat.exists_eq_add_of_le hs
      rw [List.getD_eq_getElem _ _ hi]
      exact h _ j (by omega) rfl
    · rintro h _ j hj rfl
      rw [← List.getD_eq_getElem _ 0]
      exact h _ (by omega) (by omega)
  rw [← hdrop]
  simp [fitsBelow, BitVec.msb_eq_getLsbD_last]

theorem flagBit_eq_ite {c : Bool} {p : Prop} [Decidable p] (h : c = true ↔ p) : flagBit c = if p then 1 else 0 := by
  cases c <;> simp [flagBit, ← h]

/-! ### The operands after a store (R34, R36) -/

theorem getD_lowLimbs {n : Nat} (r : Vector Word n) (l : Nat) {i : Nat} (hi : i < n) (d : Word) :
    (lowLimbs r l).getD i d = if i < l then r[i] else d := by
  rw [lowLimbs, List.getD_eq_getElem?_getD, List.getElem?_take]
  split <;> simp [hi]

theorem widthLimbs_pos (w : Width) : 0 < widthLimbs w := by cases w <;> decide

/-- The sign of an operand is bit 31 of limb L − 1 (R153). -/
theorem isNegative_lowLimbs {n l : Nat} (r : Vector Word n) (hpos : 0 < l) (hl : l ≤ n) :
    isNegative (lowLimbs r l) = r[l - 1].getLsbD 31 := by
  have htop : (lowLimbs r l).getLastD 0 = r[l - 1] := by
    rw [List.getLastD_eq_getLast?, List.getLast?_eq_getElem?, length_lowLimbs, min_eq_left hl,
      ← List.getD_eq_getElem?_getD, getD_lowLimbs r l (by omega), if_pos (by omega)]
  rw [isNegative, htop, BitVec.msb_eq_getLsbD_last]

section StoredOperand

variable {w : Width} {x : Limbs} (hx : x.length = widthLimbs w)
include hx

/-- What a command stores is what the next one of its width reads (R34). -/
theorem lowLimbs_storeLow_width (r : Vector Word 32) : lowLimbs (storeLow r x) (widthLimbs w) = x :=
  hx ▸ lowLimbs_storeLow r x (hx ▸ widthLimbs_le w)

/-- Storing the operand a register held undoes a store of one width (R146, R161). -/
theorem storeLow_storeLow_lowLimbs (r : Vector Word 32) : storeLow (storeLow r x) (lowLimbs r (widthLimbs w)) = r := by
  rw [storeLow_storeLow r x _ (by simp [hx, widthLimbs_le]), storeLow_lowLimbs]

/-- A register gets its own operand back from the register that took it over (R146). -/
theorem storeLow_lowLimbs_storeLow_lowLimbs (r q : Vector Word 32) :
    storeLow (storeLow r x) (lowLimbs (storeLow q (lowLimbs r (widthLimbs w))) (widthLimbs w)) = r := by
  rw [lowLimbs_storeLow_width (by simp [widthLimbs_le]), storeLow_storeLow_lowLimbs hx]

/-- A store of one width leaves the limbs above it (R36). -/
theorem getElem_storeLow_above (r : Vector Word 32) {i : Fin 32} (hi : widthLimbs w ≤ i) : (storeLow r x)[i] = r[i] := by
  simp [hx, hi]

end StoredOperand

/-- Adding into a register's operand and subtracting the same again leaves the register (R161). -/
theorem storeLow_subShifted_addShifted {w : Width} {y : Limbs} (hy : y.length = widthLimbs w) (r : Vector Word 32)
    (n : Nat) :
    storeLow (storeLow r (addShifted (lowLimbs r (widthLimbs w)) y n))
      (subShifted (lowLimbs (storeLow r (addShifted (lowLimbs r (widthLimbs w)) y n)) (widthLimbs w)) y n) = r := by
  have hr : (lowLimbs r (widthLimbs w)).length = widthLimbs w := by simp [widthLimbs_le]
  have hsum : (addShifted (lowLimbs r (widthLimbs w)) y n).length = widthLimbs w := by rw [length_addShifted, hr]
  rw [lowLimbs_storeLow_width hsum, subShifted_addShifted (hr.trans hy.symm), storeLow_storeLow_lowLimbs hsum]

/-! ### What swap and the shifted operations write, the new registers named by the caller (R145, R156, R159) -/

section Exec

variable {w : Width} {s : State} {a b : Vector Word 32}

theorem exec_swap (ha : storeLow s.a (operandB w s) = a) (hb : storeLow s.b (operandA w s) = b) :
    exec (.swap w) s = .next { s with a := a, b := b, st := .done, term := .none } := by
  rw [← ha, ← hb]
  rfl

theorem exec_addShifted (ha : storeLow s.a (addShifted (operandA w s) (operandB w s) s.sReg.toNat) = a) :
    exec (.addShifted w) s = .next { s with a := a, st := .done, term := .none } := by
  rw [← ha]
  rfl

theorem exec_subShifted (ha : storeLow s.a (subShifted (operandA w s) (operandB w s) s.sReg.toNat) = a) :
    exec (.subShifted w) s = .next { s with a := a, st := .done, term := .none } := by
  rw [← ha]
  rfl

end Exec

/-! ### The statements -/

/-- Settles O18, by the borrow out of the last limb. -/
theorem borrowChainDecidesLessThan : Obligations.BorrowChainDecidesLessThan := by
  intro x y h
  have hiff : lessThanByChain x y = true ↔ uval x < uval y := by
    rw [lessThanByChain, decide_eq_true_iff, subChain_borrow_eq_one_iff h]
  exact ⟨by rw [Bool.eq_iff_iff, hiff, lessThan, decide_eq_true_iff], hiff⟩

/-- Settles O19: the scan and the bit length are below the same bounds. -/
theorem scanFromTopGivesBitLength : Obligations.ScanFromTopGivesBitLength := fun x =>
  eq_of_forall_ge_iff fun k => by
    rw [bitLengthByScan, scanDown_reverse_le_iff, ← magnitudeLimbs_eq_map_xor, bitLength_le_iff]

/-- Settles O20, by the bits of the shifted limbs and the values of the chains. -/
theorem limbLoopIsShiftedAddAndSubtract : Obligations.LimbLoopIsShiftedAddAndSubtract := fun _ _ s h =>
  ⟨addShiftedByLimbs_eq h s, subShiftedByLimbs_eq h s⟩

/-- Settles O23, limb by limb. -/
theorem swapExchangesLowLimbs : Obligations.SwapExchangesLowLimbs := by
  refine fun w s => ⟨decode_encode (i := .swap w) rfl, _, _, exec_swap rfl rfl, fun i => ?_⟩
  simp only [Fin.getElem_fin, getElem_storeLow]
  exact ⟨getD_lowLimbs s.b _ i.isLt _, getD_lowLimbs s.a _ i.isLt _⟩

/-- Settles O24: in between, each register holds the other's operand, and hands it back. -/
theorem swapTwiceRestores : Obligations.SwapTwiceRestores := fun w s =>
  ⟨_, exec_swap rfl rfl, exec_swap
    (storeLow_lowLimbs_storeLow_lowLimbs (length_operandB w s) s.a s.b)
    (storeLow_lowLimbs_storeLow_lowLimbs (length_operandA w s) s.b s.a)⟩

/-- Settles O25: the bit length fits RN, and it is the least bound of the magnitude. -/
theorem bitLengthIsLeastBound : Obligations.BitLengthIsLeastBound := by
  refine fun w s => ⟨decode_encode (i := .bitLength w) rfl, _, rfl, ?_⟩
  have hbound : bitLength (operandA w s) ≤ 32 * widthLimbs w - 1 := by
    simpa [bitWidth] using bitLength_le (operandA w s)
  have hn : (putRn (bitLength (operandA w s)) s).rn.toNat = bitLength (operandA w s) := by
    have := widthLimbs_le w
    rw [putRn_rn, BitVec.toNat_ofNat]
    omega
  rw [hn]
  intro v mg
  have hmg : (uval (magnitudeLimbs (operandA w s)) : Int) = mg := uval_magnitudeLimbs _
  rw [← hmg]
  refine ⟨?_, fun m hm => ?_, hbound⟩
  · exact_mod_cast magnitude_lt_two_pow_bitLength (operandA w s)
  · exact (bitLength_le_iff _ m).mpr (by exact_mod_cast hm)

/-- Settles O26: the fault outside the range of R151; within it the bound by value and by limbs. -/
theorem fitsBelowTestsBoundOrFaults : Obligations.FitsBelowTestsBoundOrFaults := by
  intro w s x b
  have hlen : x.length = widthLimbs w := length_operandA w s
  have hzero : s.sReg = 0 ↔ b = 0 := BitVec.toNat_eq
  refine ⟨decode_encode (i := .fitsBelow w) rfl, fun hb => if_pos (hb.imp_left hzero.mpr), fun h0 hL => ?_⟩
  have hrange : ¬(s.sReg = 0 ∨ widthLimbs w < b) := not_or.mpr ⟨mt hzero.mp h0.ne', Nat.not_lt.mpr hL⟩
  have hvalue := fitsBelow_iff x b h0 (hlen ▸ hL)
  refine ⟨?_, hlen ▸ hvalue.symm.trans (fitsBelow_iff_limbs x b)⟩
  rw [← flagBit_eq_ite hvalue]
  exact if_neg hrange

/-- Settles O28, by the value of the shifted sum. -/
theorem addShiftedAddsModuloWidth : Obligations.AddShiftedAddsModuloWidth := by
  refine fun w s => ⟨decode_encode (i := .addShifted w) rfl, _, exec_addShifted rfl, ?_, fun i hi => ?_⟩
  · rw [lowLimbs_storeLow_width (by simp), uval_addShifted (by simp), length_operandA]
    rfl
  · exact getElem_storeLow_above (by simp) s.a hi

/-- Settles O29, by the value of the shifted difference. -/
theorem subShiftedSubtractsModuloWidth : Obligations.SubShiftedSubtractsModuloWidth := by
  refine fun w s => ⟨decode_encode (i := .subShifted w) rfl, _, exec_subShifted rfl, ?_, fun i hi => ?_⟩
  · rw [lowLimbs_storeLow_width (by simp), uval_subShifted (by simp), length_operandA]
    rfl
  · exact getElem_storeLow_above (by simp) s.a hi

/-- Settles O30: the difference is the operand A held, and storing it undoes the store of the sum. -/
theorem addThenSubtractRestores : Obligations.AddThenSubtractRestores := fun w s =>
  ⟨_, exec_addShifted rfl, exec_subShifted (storeLow_subShifted_addShifted (length_operandB w s) s.a _)⟩

/-- Settles O31. -/
theorem truncationCommutesWithShiftedArithmetic : Obligations.TruncationCommutesWithShiftedArithmetic :=
  fun _ _ s _ h hl => ⟨take_addShifted h s hl, take_subShifted h s hl⟩

/-- Settles O32: the magnitude is 0 for 0 and −1 alone, and only a negative value differs from its magnitude. -/
theorem bitLengthAndFitsBelowAgree : Obligations.BitLengthAndFitsBelowAgree := fun x =>
  ⟨bitLength_eq_zero_iff x, fun _ => fitsBelow_iff_bitLength⟩

/-- Settles O22, by what the command delivers to COUT. -/
theorem lessThanComparesUnsigned : Obligations.LessThanComparesUnsigned := by
  refine fun w s => ⟨decode_encode (i := .lessThan w) rfl, ?_⟩
  rw [← flagBit_eq_ite decide_eq_true_iff]
  rfl

/-- Settles O27: the operand's sign is that of limb L − 1. -/
theorem isNegativeReadsTopLimbSign : Obligations.IsNegativeReadsTopLimbSign := by
  intro w s
  have hpos := widthLimbs_pos w
  have hle := widthLimbs_le w
  refine ⟨decode_encode (i := .isNegative w) rfl, ⟨widthLimbs w - 1, by omega⟩, Nat.sub_add_cancel hpos, ?_⟩
  rw [Fin.getElem_fin, ← isNegative_lowLimbs s.a hpos hle]
  rfl

end Sys2Proof.Machine

/-! # The schoolbook product (spec/42_lattice_reduction.md R175) -/

namespace Sys2Proof.Machine

theorem length_mulRow (x : Word) {ys rs : Limbs} (h : ys.length = rs.length) (cy : Word) :
    (mulRow x ys rs cy).1.length = ys.length := by
  induction ys generalizing rs cy with
  | nil => simp [mulRow]
  | cons y ys ih =>
    obtain ⟨r, rs, rfl⟩ := List.exists_cons_of_length_eq_add_one h.symm
    simp [mulRow, ih (Nat.succ.inj h)]

/-- A row loses nothing: its last carry weighs 2 to the width of the row. -/
theorem uval_mulRow (x : Word) {ys rs : Limbs} (h : ys.length = rs.length) (cy : Word) :
    uval (mulRow x ys rs cy).1 + 2 ^ (32 * ys.length) * (mulRow x ys rs cy).2.toNat =
      uval rs + x.toNat * uval ys + cy.toNat := by
  induction ys generalizing rs cy with
  | nil =>
    obtain rfl := List.length_eq_zero_iff.mp h.symm
    simp [mulRow]
  | cons y ys ih =>
    obtain ⟨r, rs, rfl⟩ := List.exists_cons_of_length_eq_add_one h.symm
    have hlink := fusedProduct_words x y r cy
    have hrest := ih (Nat.succ.inj h) (highWord (fusedProduct x y r cy))
    rw [mulRow, List.length_cons, two_pow_width_succ, uval_cons, uval_cons, uval_cons]
    linear_combination hlink + 2 ^ 32 * hrest

/-- One row on a result array that is zero past the row: its lowest limb is final, and the others are the array the next row
works on, again zero past that row. -/
theorem schoolbookRows_cons_of_mulRow {x d : Word} {xs ys lo hi : Limbs} (hlo : lo.length = ys.length)
    (hrow : (mulRow x ys lo 0#32).1 ++ [(mulRow x ys lo 0#32).2] = d :: hi) :
    schoolbookRows (x :: xs) ys (lo ++ List.replicate (x :: xs).length 0#32) =
      d :: schoolbookRows xs ys (hi ++ List.replicate xs.length 0#32) := by
  have htake : (lo ++ List.replicate (x :: xs).length 0#32).take ys.length = lo := hlo ▸ List.take_left
  have hdrop : (lo ++ List.replicate (x :: xs).length 0#32).drop (ys.length + 1) = List.replicate xs.length 0#32 := by
    simp [← hlo, List.drop_append]
  have hjoin : (mulRow x ys lo 0#32).1 ++ (mulRow x ys lo 0#32).2 :: List.replicate xs.length 0#32 =
      d :: (hi ++ List.replicate xs.length 0#32) := by
    rw [← List.cons_append, ← hrow, List.append_assoc, List.singleton_append]
  simp only [schoolbookRows, BitVec.ofNat_eq_ofNat, htake, hdrop, hjoin]

/-- The rows add the product to what the result array holds below them. -/
theorem schoolbookRows_append_zeros (xs : Limbs) {ys lo : Limbs} (hlo : lo.length = ys.length) :
    (schoolbookRows xs ys (lo ++ List.replicate xs.length 0#32)).length = xs.length + ys.length ∧
      uval (schoolbookRows xs ys (lo ++ List.replicate xs.length 0#32)) = uval lo + uval xs * uval ys := by
  induction xs generalizing lo with
  | nil => simp [schoolbookRows, hlo]
  | cons x xs ih =>
    have hlen := length_mulRow x hlo.symm 0#32
    have hrowval := uval_mulRow x hlo.symm 0#32
    obtain ⟨d, hi, hrow⟩ := List.exists_cons_of_length_eq_add_one
      (l := (mulRow x ys lo 0#32).1 ++ [(mulRow x ys lo 0#32).2]) (n := ys.length) (by simp [hlen])
    have hhi : hi.length = ys.length := by simpa [hlen] using (congrArg List.length hrow).symm
    have hval : d.toNat + 2 ^ 32 * uval hi = uval lo + x.toNat * uval ys := by
      rw [← uval_cons, ← hrow, uval_append, hlen]
      simpa using hrowval
    obtain ⟨hlength, huval⟩ := ih hhi
    rw [schoolbookRows_cons_of_mulRow hlo hrow, List.length_cons, List.length_cons, hlength, uval_cons, uval_cons, huval]
    exact ⟨by omega, by linear_combination hval⟩

/-- Settles O21: the rows add the product to an array of zeros. -/
theorem schoolbookLoopIsProduct : Obligations.SchoolbookLoopIsProduct := by
  intro x y h
  have hzeros : List.replicate (x.length + y.length) 0#32 = List.replicate y.length 0#32 ++ List.replicate x.length 0#32 := by
    rw [List.replicate_append_replicate, Nat.add_comm]
  obtain ⟨hlength, huval⟩ := schoolbookRows_append_zeros x (ys := y) (List.length_replicate (n := y.length) (a := 0#32))
  rw [schoolbook, BitVec.ofNat_eq_ofNat, hzeros]
  refine ⟨by rw [hlength]; omega, ?_⟩
  rw [huval, uval_replicate_zero, Nat.zero_add]

end Sys2Proof.Machine

/-! # The parts of an iteration (spec/42_lattice_reduction.md R177 to R191), and the acceptance of `reduce254` (R199) -/

namespace Sys2Proof.Machine

/-! ### `reduce254` (R199) -/

/-- With the budget given, an acceptance reads nothing of S and leaves it. -/
theorem acceptReduce_with_sReg (w : Width) (budget v : Word) (s : State) :
    acceptReduce w budget { s with sReg := v } = { acceptReduce w budget s with sReg := v } := by
  rcases acceptReduce_cases w budget s with ⟨hi, h⟩ | ⟨i, hi, hlt, h⟩ | ⟨i, hi, hle, h⟩ <;> rw [h]
  · simp [acceptReduce, hi, raiseFault]
  · have hlt' : lessThan (operandA w s) (operandB w s) = true := decide_eq_true hlt
    simp_all [acceptReduce, operandA, operandB]
  · have hle' : lessThan (operandA w s) (operandB w s) = false := decide_eq_false (Nat.not_lt.mpr hle)
    simp_all [acceptReduce, operandA, operandB, raiseFault]

/-- Settles O34: the acceptance at width 256 with the budget 254, which reads nothing of S. -/
theorem reduce254StartsWithFixedBudget : Obligations.Reduce254StartsWithFixedBudget := by
  refine ⟨decode_encode (i := .reduce254 .w256) rfl, fun s => ⟨fun hlt => ?_, fun hle => ?_⟩⟩
  · obtain ⟨e, he, hacc⟩ := acceptReduce_starts (w := .w256) (i := .i256) rfl fixedBudget hlt
    refine ⟨e, he, congrArg _ hacc, ?_⟩
    rw [exec_reduce]
    refine congrArg _ ((acceptReduce_with_sReg .w256 254 254 s).trans ?_)
    exact congrArg (fun t : State => { t with sReg := 254 }) hacc
  · exact congrArg _ (acceptReduce_kGeN (w := .w256) (i := .i256) rfl fixedBudget hle)

/-! ### Part 1 as the rule writes it (R178) -/

theorem orderVectors_eq_ite (e : Engine) :
    orderVectors e =
      if uval e.nu < uval e.nv then
        { e with u0 := e.v0, v0 := e.u0, u1 := e.v1, v1 := e.u1, nu := e.nv, nv := e.nu }
      else e := by
  rcases orderVectors_cases e with ⟨h, he⟩ | ⟨h, he⟩ <;> rw [he]
  · rw [if_neg (Nat.not_lt.mpr h)]
  · rw [if_pos h]

theorem orderVectors_of_le {e : Engine} (h : uval e.nv ≤ uval e.nu) : orderVectors e = e := by
  rw [orderVectors_eq_ite, if_neg (Nat.not_lt.mpr h)]

/-- Part 1 exchanges norms of one width. -/
theorem length_orderVectors_nu_nv {e : Engine} (h : e.nv.length = e.nu.length) :
    (orderVectors e).nu.length = e.nu.length ∧ (orderVectors e).nv.length = e.nu.length := by
  rcases orderVectors_cases e with ⟨-, he⟩ | ⟨-, he⟩ <;> rw [he]
  · exact ⟨rfl, h⟩
  · exact ⟨h, rfl⟩

/-- Part 2, the budget test, as the comparison it makes (R179). -/
theorem budgetMet_iff (e : Engine) : budgetMet e = true ↔ bitLength e.nv ≤ e.maxbl.toNat := decide_eq_true_iff

theorem budgetMet_eq_false_iff (e : Engine) : budgetMet e = false ↔ e.maxbl.toNat < bitLength e.nv := by
  rw [← Bool.not_eq_true, budgetMet_iff, Nat.not_le]

/-! ### An engine step in phase 1 and in phase 2 -/

section Steps

variable {s : State} {e : Engine}

theorem engineStep_of_p1 (h : s.eng.lstate = .p1) :
    engineStep s = applyIteration (phase1 (instL2 s.eng.inst) s.eng) s := by
  simp [engineStep, h]

theorem engineStep_of_p2 (h : s.eng.lstate = .p2) : engineStep s = applyIteration (phase2 s.eng) s := by
  simp [engineStep, h]

/-- With the budget met, a phase-1 iteration finishes (R179). -/
theorem phase1_of_budgetMet {l2 : Nat} (hb : budgetMet (orderVectors e) = true) :
    phase1 l2 e = .finishes .budget (orderVectors e) := by
  simp [phase1, hb]

/-- With the budget not met and nu below the bound, a phase-1 iteration leaves for phase 2 (R184). -/
theorem phase1_of_fitsBelow {l2 : Nat} (hb : budgetMet (orderVectors e) = false)
    (hf : fitsBelow (orderVectors e).nu l2 = true) : phase1 l2 e = .goesOn (shrink l2 (orderVectors e)) := by
  simp [phase1, hb, hf]

/-- With neither, a phase-1 iteration reduces u (R184). -/
theorem phase1_of_not_fitsBelow {l2 : Nat} (hb : budgetMet (orderVectors e) = false)
    (hf : fitsBelow (orderVectors e).nu l2 = false) : phase1 l2 e = .goesOn (reduceVector (orderVectors e)) := by
  simp [phase1, hb, hf]

/-- With the budget met, a phase-2 iteration finishes (R179). -/
theorem phase2_of_budgetMet (hb : budgetMet (orderVectors e) = true) : phase2 e = .finishes .budget (orderVectors e) := by
  simp [phase2, hb]

/-- With the budget not met, a phase-2 iteration that the guard ends finishes with the guard's engine (R188). -/
theorem phase2_of_guard_finishes {r : Term} {e2 : Engine} (hb : budgetMet (orderVectors e) = false)
    (hg : guardStep (orderVectors e) = .finishes r e2) : phase2 e = .finishes r e2 := by
  simp [phase2, hb, hg]

/-- With the budget not met, a phase-2 iteration that the guard lets go on reduces u (R186). -/
theorem phase2_of_guard_goesOn {e2 : Engine} (hb : budgetMet (orderVectors e) = false)
    (hg : guardStep (orderVectors e) = .goesOn e2) : phase2 e = .goesOn (reduceVector e2) := by
  simp [phase2, hb, hg]

end Steps

/-! ### The guard by its verdicts (R188, R190) -/

section Guard

variable {e : Engine}

/-- The guard's verdicts, with the threshold of R190: an increase, or an equality past the third in a row, ends the run; an
equality before that is counted; a decrease, and the first iteration of the phase, start the count again. -/
theorem guardStep_verdicts (e : Engine) :
    (e.prevv = true ∧ (e.prevbl < bitLength e.sp ∨ (e.prevbl = bitLength e.sp ∧ 3 ≤ e.stallc)) ∧
      guardStep e = .finishes .stall { e with stallc := e.stallc + 1 }) ∨
    (e.prevv = true ∧ e.prevbl = bitLength e.sp ∧ e.stallc < 3 ∧
      guardStep e = .goesOn { e with stallc := e.stallc + 1, prevbl := bitLength e.sp, prevv := true }) ∨
    ((e.prevv = false ∨ bitLength e.sp < e.prevbl) ∧
      guardStep e = .goesOn { e with stallc := 0, prevbl := bitLength e.sp, prevv := true }) := by
  have hthreshold : stallThreshold = 3 := rfl
  rcases guardStep_cases e with ⟨hv, hb, hc, hg⟩ | ⟨hv, hb, hc, hg⟩ | h
  · exact .inl ⟨hv, by omega, hg⟩
  · exact .inr (.inl ⟨hv, hb, by omega, hg⟩)
  · exact .inr (.inr h)

theorem guardStep_ends (hv : e.prevv = true)
    (h : e.prevbl < bitLength e.sp ∨ (e.prevbl = bitLength e.sp ∧ 3 ≤ e.stallc)) :
    guardStep e = .finishes .stall { e with stallc := e.stallc + 1 } := by
  rcases guardStep_verdicts e with ⟨-, -, hg⟩ | ⟨-, hb, hc, -⟩ | ⟨hn, -⟩
  · exact hg
  · omega
  · simp only [hv, reduceCtorEq, false_or] at hn
    omega

theorem guardStep_counts (hv : e.prevv = true) (hb : e.prevbl = bitLength e.sp) (hc : e.stallc < 3) :
    guardStep e = .goesOn { e with stallc := e.stallc + 1, prevbl := bitLength e.sp, prevv := true } := by
  rcases guardStep_verdicts e with ⟨-, h, -⟩ | ⟨-, -, -, hg⟩ | ⟨hn, -⟩
  · omega
  · exact hg
  · simp only [hv, reduceCtorEq, false_or] at hn
    omega

theorem guardStep_restarts (h : e.prevv = false ∨ bitLength e.sp < e.prevbl) :
    guardStep e = .goesOn { e with stallc := 0, prevbl := bitLength e.sp, prevv := true } := by
  rcases guardStep_verdicts e with ⟨hv, hb, -⟩ | ⟨hv, hb, -, -⟩ | ⟨-, hg⟩
  · simp only [hv, reduceCtorEq, false_or] at h
    omega
  · simp only [hv, reduceCtorEq, false_or] at h
    omega
  · exact hg

/-- The guard that lets a run go on changes no register but its own. -/
theorem guardStep_goesOn_eq {e2 : Engine} (h : guardStep e = .goesOn e2) :
    ∃ c p v, e2 = { e with stallc := c, prevbl := p, prevv := v } := by
  rcases guardStep_cases e with ⟨-, -, -, hg⟩ | ⟨-, -, -, hg⟩ | ⟨-, hg⟩ <;> cases hg.symm.trans h
  · exact ⟨_, _, _, rfl⟩
  · exact ⟨_, _, _, rfl⟩

/-- The guard that ends a run changes its count alone. -/
theorem guardStep_finishes_eq {r : Term} {e2 : Engine} (h : guardStep e = .finishes r e2) :
    ∃ c, e2 = { e with stallc := c } := by
  rcases guardStep_cases e with ⟨-, -, -, hg⟩ | ⟨-, -, -, hg⟩ | ⟨-, hg⟩ <;> cases hg.symm.trans h
  exact ⟨_, rfl⟩

/-- Whatever the guard's verdict, the count rises by at most one. -/
theorem guardStep_stallc_le {e2 : Engine} (h : guardStep e = .goesOn e2 ∨ guardStep e = .finishes .stall e2) :
    e2.stallc ≤ e.stallc + 1 := by
  rcases guardStep_cases e with ⟨-, -, -, hg⟩ | ⟨-, -, -, hg⟩ | ⟨-, hg⟩ <;> rw [hg] at h
  all_goals
    obtain rfl : _ = e2 := by simpa using h
    simp

end Guard

/-- A phase-2 step raises the guard's count by at most one (R188). -/
theorem engineStep_stallc_le {s : State} (h : s.eng.lstate = .p2) : (engineStep s).eng.stallc ≤ s.eng.stallc + 1 := by
  rw [engineStep_of_p2 h]
  rcases phase2_cases s.eng with ⟨-, hp⟩ | ⟨-, e2, hg, hp⟩ | ⟨-, e2, hg, hp⟩ <;> rw [hp]
  · simp [applyIteration]
  · simpa [applyIteration] using guardStep_stallc_le (.inr hg)
  · simpa [applyIteration] using guardStep_stallc_le (.inl hg)

/-! ### The shrink (R185) -/

/-- A value below half the range is its own magnitude (R147). -/
theorem magnitudeLimbs_of_lt_half {x : Limbs} (h : uval x < 2 ^ (32 * x.length - 1)) : magnitudeLimbs x = x := by
  rcases sval_cases x with ⟨-, hm⟩ | ⟨-, hge⟩
  · exact hm
  · omega

theorem two_pow_half_le {l n : Nat} (h : l ≤ n) : 2 ^ (32 * l - 1) ≤ 2 ^ (32 * n - 1) :=
  Nat.pow_le_pow_right (by decide) (by omega)

section Shrink

variable {x : Limbs} {l : Nat} (h : uval x < 2 ^ (32 * l - 1))
include h

/-- A value below half the narrower range loses nothing to the narrower width. -/
theorem uval_take_of_lt_half : uval (x.take l) = uval x := by
  have hle : 2 ^ (32 * l - 1) ≤ 2 ^ (32 * l) := Nat.pow_le_pow_right (by decide) (by omega)
  rw [uval_take, Nat.mod_eq_of_lt (by omega)]

/-- Such a value is its own magnitude at both widths, so its bit length does not change either. -/
theorem bitLength_take_of_lt_half (hl : l ≤ x.length) : bitLength (x.take l) = bitLength x := by
  have hval := uval_take_of_lt_half h
  have hhalf := two_pow_half_le hl
  have htake : magnitudeLimbs (x.take l) = x.take l :=
    magnitudeLimbs_of_lt_half (by rwa [hval, List.length_take_of_le hl])
  refine eq_of_forall_ge_iff fun m => ?_
  rw [bitLength_le_iff, bitLength_le_iff, htake, magnitudeLimbs_of_lt_half (h.trans_le hhalf), hval]

end Shrink

/-! ### Part 4 as the addition of a multiple of v (R181, R182) -/

/-- The multiple of v that part 4 adds to u: 2 to the shift, negative in the subtracting branch (R177, R180). -/
def partFourMultiple (e : Engine) : Int := (if e.first = true ∨ 0 ≤ sval e.sp then -1 else 1) * 2 ^ shiftAmount e

/-- The sign of the multiple is that of the branch taken. -/
theorem reduceVector_multiple_cases (e : Engine) :
    (partFourMultiple e = -2 ^ shiftAmount e ∧ reduceVector e = subtractStep (shiftAmount e) e) ∨
    (partFourMultiple e = 2 ^ shiftAmount e ∧ reduceVector e = addStep (shiftAmount e) e) := by
  have hn := isNegative_iff_sval e.sp
  unfold partFourMultiple
  rcases reduceVector_cases e with ⟨hc, he⟩ | ⟨⟨hf, hs⟩, he⟩
  · have hpos : e.first = true ∨ 0 ≤ sval e.sp :=
      hc.imp_right fun h => not_lt.mp fun hlt => by simp [hn.mpr hlt] at h
    exact .inl ⟨by rw [if_pos hpos]; ring, he⟩
  · have hneg : ¬(e.first = true ∨ 0 ≤ sval e.sp) := by
      have := hn.mp hs
      simp [hf]
      omega
    exact .inr ⟨by rw [if_neg hneg]; ring, he⟩

section PartFour

variable {e : Engine}

/-- A register that part 4 updates by one shifted operation gains the multiple of the other operand. -/
theorem modEq_add_multiple {x y z : Limbs} (h : x.length = y.length)
    (hsub : reduceVector e = subtractStep (shiftAmount e) e → z = subShifted x y (shiftAmount e))
    (hadd : reduceVector e = addStep (shiftAmount e) e → z = addShifted x y (shiftAmount e)) :
    (uval z : Int) ≡ uval x + partFourMultiple e * uval y [ZMOD 2 ^ bitWidth z] := by
  rcases reduceVector_multiple_cases e with ⟨hm, he⟩ | ⟨hm, he⟩
  · rw [hm, hsub he, neg_mul, mul_comm, ← sub_eq_add_neg, bitWidth, length_subShifted]
    exact subShifted_modEq x y _ h
  · rw [hm, hadd he, mul_comm, bitWidth, length_addShifted]
    exact addShifted_modEq x y _ h

theorem reduceVector_u0_modEq (h : e.u0.length = e.v0.length) :
    (uval (reduceVector e).u0 : Int) ≡ uval e.u0 + partFourMultiple e * uval e.v0
      [ZMOD 2 ^ bitWidth (reduceVector e).u0] :=
  modEq_add_multiple h (congrArg Engine.u0) (congrArg Engine.u0)

theorem reduceVector_u1_modEq (h : e.u1.length = e.v1.length) :
    (uval (reduceVector e).u1 : Int) ≡ uval e.u1 + partFourMultiple e * uval e.v1
      [ZMOD 2 ^ bitWidth (reduceVector e).u1] :=
  modEq_add_multiple h (congrArg Engine.u1) (congrArg Engine.u1)

theorem reduceVector_sp_modEq (h : e.sp.length = e.nv.length) :
    (uval (reduceVector e).sp : Int) ≡ uval e.sp + partFourMultiple e * uval e.nv
      [ZMOD 2 ^ bitWidth (reduceVector e).sp] :=
  modEq_add_multiple h (congrArg Engine.sp) (congrArg Engine.sp)

/-- The norm of u + m·v, from the norms of u and v and their product before part 4 (R181, R192). -/
theorem reduceVector_nu_modEq (hv : e.nu.length = e.nv.length) (hs : e.nu.length = e.sp.length) :
    (uval (reduceVector e).nu : Int) ≡
      uval e.nu + partFourMultiple e ^ 2 * uval e.nv + 2 * partFourMultiple e * uval e.sp
      [ZMOD 2 ^ bitWidth (reduceVector e).nu] := by
  have hsum := addShifted_modEq e.nu e.nv (2 * shiftAmount e) hv
  have hlen : (addShifted e.nu e.nv (2 * shiftAmount e)).length = e.sp.length := by rw [length_addShifted, hs]
  rw [bitWidth, reduceVector_nu_length]
  rcases reduceVector_multiple_cases e with ⟨hm, he⟩ | ⟨hm, he⟩ <;> rw [hm, he]
  · have hdiff := subShifted_modEq _ e.sp (shiftAmount e + 1) hlen
    rw [length_addShifted] at hdiff
    refine (hdiff.trans (hsum.sub_right _)).trans ?_
    ring_nf
    rfl
  · have hadd := addShifted_modEq _ e.sp (shiftAmount e + 1) hlen
    rw [length_addShifted] at hadd
    refine (hadd.trans (hsum.add_right _)).trans ?_
    ring_nf
    rfl

end PartFour

/-! ### The branches of part 4, and the engine step of a run -/

theorem reduceVector_of_subtracts {e : Engine} (h : e.first = true ∨ isNegative e.sp = false) :
    reduceVector e = subtractStep (shiftAmount e) e := by
  rcases h with h | h <;> simp [reduceVector, h]

theorem reduceVector_of_adds {e : Engine} (h : e.first = false ∧ isNegative e.sp = true) :
    reduceVector e = addStep (shiftAmount e) e := by
  simp [reduceVector, h]

/-- What an engine step does to a running engine, and to the exact vectors beside it: it ends the run after part 1, or leaves
phase 1 after part 1, or comes to part 4; the guard touches its own registers alone (R184, R186, R188). -/
theorem engineStep_running_cases {s : State} (h : s.eng.lstate ≠ .idle) :
    (∃ reason c, engineStep s = finishRun reason { orderVectors s.eng with stallc := c } s ∧
      ((reason = .budget ∧ budgetMet (orderVectors s.eng) = true) ∨
        (reason = .stall ∧ s.eng.lstate = .p2 ∧ budgetMet (orderVectors s.eng) = false)) ∧
      ∀ g, exactStep s.eng g = exactOrder s.eng g) ∨
    (∃ l2, engineStep s = { s with eng := shrink l2 (orderVectors s.eng) } ∧
      ∀ g, exactStep s.eng g = exactOrder s.eng g) ∨
    (∃ c p v, engineStep s =
        { s with eng := reduceVector { orderVectors s.eng with stallc := c, prevbl := p, prevv := v } } ∧
      ∀ g, exactStep s.eng g = exactReduce (orderVectors s.eng) (exactOrder s.eng g)) := by
  rcases engineStep_cases s with ⟨hl, -⟩ | ⟨hl, hs⟩ | ⟨hl, hs⟩
  · exact absurd hl h
  · have hl1 : (orderVectors s.eng).lstate = .p1 := by rw [orderVectors_lstate, hl]
    rcases phase1_cases (instL2 s.eng.inst) s.eng with ⟨hb, hp⟩ | ⟨hb, hf, hp⟩ | ⟨hb, hf, hp⟩ <;> rw [hs, hp]
    · exact .inl ⟨_, (orderVectors s.eng).stallc, rfl, .inl ⟨rfl, hb⟩, fun g => by
        simp [exactStep, h, comesToPartFour_p1 hl1, hb]⟩
    · exact .inr (.inl ⟨_, rfl, fun g => by simp [exactStep, h, comesToPartFour_p1 hl1, hf]⟩)
    · exact .inr (.inr ⟨(orderVectors s.eng).stallc, (orderVectors s.eng).prevbl, (orderVectors s.eng).prevv, rfl,
        fun g => by simp [exactStep, h, comesToPartFour_p1 hl1, hb, hf]⟩)
  · have hl2 : (orderVectors s.eng).lstate = .p2 := by rw [orderVectors_lstate, hl]
    have hfour := comesToPartFour_p2 hl2
    rcases phase2_cases s.eng with ⟨hb, hp⟩ | ⟨hb, e2, hg, hp⟩ | ⟨hb, e2, hg, hp⟩ <;> rw [hs, hp]
    · exact .inl ⟨_, (orderVectors s.eng).stallc, rfl, .inl ⟨rfl, hb⟩, fun g => by simp [exactStep, h, hfour, hb]⟩
    · obtain ⟨c, rfl⟩ := guardStep_finishes_eq hg
      exact .inl ⟨_, c, rfl, .inr ⟨rfl, hl, hb⟩, fun g => by
        simp [exactStep, h, Bool.eq_false_iff.mpr (mt hfour.mp (by simp [hg]))]⟩
    · obtain ⟨c, p, v, rfl⟩ := guardStep_goesOn_eq hg
      exact .inr (.inr ⟨c, p, v, rfl, fun g => by simp [exactStep, h, hfour.mpr ⟨hb, _, hg⟩]⟩)

/-! ### The coordinates beside the decisions (R193), and PREVBL before the guard has set it (R176, R188) -/

/-- An iteration's outcome with its engine replaced. -/
def Iteration.map (f : Engine → Engine) : Iteration → Iteration
  | .goesOn e => .goesOn (f e)
  | .finishes r e => .finishes r (f e)

/-- The engine with the coordinate registers left out of view (R193). -/
def Engine.bare (e : Engine) : Engine := { e with u0 := [], u1 := [], v0 := [], v1 := [] }

theorem withoutCoordinates_eq_map (i : Iteration) : i.withoutCoordinates = i.map Engine.bare := by
  cases i <;> rfl

/-- The engine with PREVBL out of view while PREVV says that it holds nothing (R176, R188). -/
def Engine.settled (e : Engine) : Engine := { e with prevbl := if e.prevv then e.prevbl else 0 }

/-- A change of the engine that no part of an iteration sees, and that every part keeps. -/
structure Unseen (f : Engine → Engine) : Prop where
  order : ∀ e, orderVectors (f e) = f (orderVectors e)
  budget : ∀ e, budgetMet (f e) = budgetMet e
  nu : ∀ e, (f e).nu = e.nu
  shrink : ∀ l2 e, shrink l2 (f e) = f (shrink l2 e)
  guard : ∀ e, guardStep (f e) = (guardStep e).map f
  reduce : ∀ e, reduceVector (f e) = f (reduceVector e)

namespace Unseen

variable {f : Engine → Engine} (hf : Unseen f)
include hf

theorem phase1_map (l2 : Nat) (e : Engine) : phase1 l2 (f e) = (phase1 l2 e).map f := by
  have hbudget : budgetMet (orderVectors (f e)) = budgetMet (orderVectors e) := by rw [hf.order, hf.budget]
  have hnu : (orderVectors (f e)).nu = (orderVectors e).nu := by rw [hf.order, hf.nu]
  rcases phase1_cases l2 e with ⟨hb, hp⟩ | ⟨hb, hfit, hp⟩ | ⟨hb, hfit, hp⟩ <;> rw [hp]
  · rw [phase1_of_budgetMet (hbudget.trans hb), hf.order, Iteration.map]
  · rw [phase1_of_fitsBelow (hbudget.trans hb) (hnu ▸ hfit), hf.order, hf.shrink, Iteration.map]
  · rw [phase1_of_not_fitsBelow (hbudget.trans hb) (hnu ▸ hfit), hf.order, hf.reduce, Iteration.map]

theorem phase2_map (e : Engine) : phase2 (f e) = (phase2 e).map f := by
  have hbudget : budgetMet (orderVectors (f e)) = budgetMet (orderVectors e) := by rw [hf.order, hf.budget]
  have hguard : guardStep (orderVectors (f e)) = (guardStep (orderVectors e)).map f := by rw [hf.order, hf.guard]
  rcases phase2_cases e with ⟨hb, hp⟩ | ⟨hb, e2, hg, hp⟩ | ⟨hb, e2, hg, hp⟩ <;> rw [hp]
  · rw [phase2_of_budgetMet (hbudget.trans hb), hf.order, Iteration.map]
  · rw [hg] at hguard
    exact phase2_of_guard_finishes (hbudget.trans hb) hguard
  · rw [hg] at hguard
    rw [phase2_of_guard_goesOn (hbudget.trans hb) hguard, hf.reduce, Iteration.map]

end Unseen

/-- No part of an iteration sees the coordinates (R193). -/
theorem bare_unseen : Unseen Engine.bare where
  order e := by cases h : lessThan e.nu e.nv <;> simp [orderVectors, Engine.bare, h]
  budget _ := rfl
  nu _ := rfl
  shrink _ _ := rfl
  guard e := by
    rcases guardStep_verdicts e with ⟨hv, h, hg⟩ | ⟨hv, hb, hc, hg⟩ | ⟨h, hg⟩ <;> rw [hg]
    · exact guardStep_ends (e := e.bare) hv h
    · exact guardStep_counts (e := e.bare) hv hb hc
    · exact guardStep_restarts (e := e.bare) h
  reduce e := by
    rcases reduceVector_cases e with ⟨h, he⟩ | ⟨h, he⟩ <;> rw [he]
    · exact reduceVector_of_subtracts (e := e.bare) h
    · exact reduceVector_of_adds (e := e.bare) h

theorem settled_of_prevv {e : Engine} (h : e.prevv = true) : e.settled = e := by
  rw [Engine.settled, if_pos h]

/-- No part of an iteration sees PREVBL while PREVV is 0, and the guard sets both together (R188). -/
theorem settled_unseen : Unseen Engine.settled where
  order e := by cases h : lessThan e.nu e.nv <;> simp [orderVectors, Engine.settled, h]
  budget _ := rfl
  nu _ := rfl
  shrink _ _ := rfl
  guard e := by
    cases hv : e.prevv
    · rw [guardStep_restarts (.inl hv), guardStep_restarts (e := e.settled) (.inl hv)]
      rfl
    · rw [settled_of_prevv hv]
      rcases guardStep_verdicts e with ⟨-, -, hg⟩ | ⟨-, -, -, hg⟩ | ⟨-, hg⟩
      all_goals rw [hg, Iteration.map, settled_of_prevv]
      · exact hv
      · rfl
      · rfl
  reduce e := by
    rcases reduceVector_cases e with ⟨h, he⟩ | ⟨h, he⟩ <;> rw [he]
    · exact reduceVector_of_subtracts (e := e.settled) h
    · exact reduceVector_of_adds (e := e.settled) h

/-! ### The statements -/

/-- Settles O36, by the three outcomes of a phase-1 iteration, the exit read as the bound on nu. -/
theorem phaseOneStepFinishesShrinksOrReduces : Obligations.PhaseOneStepFinishesShrinksOrReduces := by
  intro s hs hl l2 e
  obtain he : e = orderVectors s.eng := (orderVectors_eq_ite s.eng).symm
  clear_value e
  subst he
  have hshaped : (orderVectors s.eng).Shaped := orderVectors_shaped (hs.shaped (by simp [hl]))
  have hlen : (orderVectors s.eng).nu.length = instL3 s.eng.inst := by simp [hshaped.nu, gramLimbs, hl]
  have hwidths := instL_order s.eng.inst
  have hfits := fitsBelow_iff (orderVectors s.eng).nu l2 (by omega) (by omega)
  rw [← orderVectors_maxbl, ← budgetMet_iff, ← budgetMet_eq_false_iff, engineStep_of_p1 hl]
  refine ⟨orderVectors_ordered s.eng, fun hb => ?_, fun hb hf => ?_, fun hb hf => ?_⟩
  · rw [phase1_of_budgetMet hb, applyIteration]
  · rw [phase1_of_fitsBelow hb (hfits.mpr hf)]
    rfl
  · rw [phase1_of_not_fitsBelow hb (Bool.eq_false_iff.mpr (mt hfits.mp (Nat.not_lt.mpr hf))), applyIteration]

/-- Settles O37: each register that part 4 writes gains the multiple of v, the norm by the square of a sum. -/
theorem partFourUpdatesByTheBranchOfSp : Obligations.PartFourUpdatesByTheBranchOfSp := by
  intro e hu0 hu1 hnv hsp sh g
  have hsh : sh.toNat = shiftAmount e := by
    simp only [sh, shiftAmount]
    omega
  have hm : partFourMultiple e = g * 2 ^ shiftAmount e := rfl
  have hsq : g ^ 2 = 1 := by
    simp only [g]
    split <;> rfl
  refine ⟨(reduceVector e).u0, (reduceVector e).u1, (reduceVector e).nu, (reduceVector e).sp, ?_, by simp, by simp,
    by simp, by simp, ?_, ?_, ?_, ?_⟩
  · unfold reduceVector
    split <;> rfl
  all_goals rw [hsh]
  · convert reduceVector_u0_modEq hu0 using 1
    rw [hm]
    ring
  · convert reduceVector_u1_modEq hu1 using 1
    rw [hm]
    ring
  · convert reduceVector_nu_modEq hnv hsp using 1
    rw [hm, mul_pow, hsq]
    ring
  · convert reduceVector_sp_modEq (hsp.symm.trans hnv) using 1
    rw [hm]
    ring

/-- Settles O38, by the budget and then the guard's verdicts. -/
theorem guardEndsRunAtIncreaseOrFourthEquality : Obligations.GuardEndsRunAtIncreaseOrFourthEquality := by
  intro s hl e bl
  obtain he : e = orderVectors s.eng := (orderVectors_eq_ite s.eng).symm
  clear_value e
  subst he
  rw [← budgetMet_iff, ← budgetMet_eq_false_iff]
  refine ⟨orderVectors_ordered s.eng, fun hb => ?_, fun hb => ⟨fun hv h => ?_, fun hv h hc => ?_, fun h => ?_⟩,
    fun hc => (engineStep_stallc_le hl).trans (Nat.succ_le_succ (orderVectors_stallc s.eng ▸ hc))⟩
  all_goals rw [engineStep_of_p2 hl]
  · rw [phase2_of_budgetMet hb, applyIteration]
  · rw [phase2_of_guard_finishes hb (guardStep_ends hv h), applyIteration]
  · rw [phase2_of_guard_goesOn hb (guardStep_counts hv h hc), applyIteration]
  · rw [phase2_of_guard_goesOn hb (guardStep_restarts h), applyIteration]

/-- Settles O39: nv is at most nu, so both lie below half of 2^N2 and lose nothing to the narrower width. -/
theorem shrinkKeepsTheRunsAnswers : Obligations.ShrinkKeepsTheRunsAnswers := by
  intro l2 e e' hl h0 hle hlen hp hl'
  have hordered := orderVectors_ordered e
  obtain ⟨hnu, hnv⟩ := length_orderVectors_nu_nv hlen
  rcases phase1_cases l2 e with ⟨-, h⟩ | ⟨hb, hf, h⟩ | ⟨-, -, h⟩ <;> cases h.symm.trans hp
  · have hnult := (fitsBelow_iff _ l2 h0 (hnu ▸ hle)).mp hf
    have hnvlt := hordered.trans_lt hnult
    have hnuval := uval_take_of_lt_half hnult
    have hnvval := uval_take_of_lt_half hnvlt
    refine ⟨hnuval, hnvval, by simp [shrink], by simp [shrink], ?_, ?_⟩
    · exact orderVectors_of_le (e := shrink l2 (orderVectors e)) (hnvval.trans_le (hordered.trans_eq hnuval.symm))
    · rw [budgetMet_eq_false_iff] at hb ⊢
      exact hb.trans_eq (bitLength_take_of_lt_half hnvlt (hnv ▸ hle)).symm
  · simp [hl] at hl'

/-- Settles O42: an iteration commutes with leaving the coordinates out, and without them the two engines are one. -/
theorem coordinatesTakeNoPartInDecisions : Obligations.CoordinatesTakeNoPartInDecisions := by
  intro l2 e u0 u1 v0 v1 f
  have hbare : f.bare = e.bare := rfl
  simp only [withoutCoordinates_eq_map, ← bare_unseen.phase1_map, ← bare_unseen.phase2_map, hbare, and_self]

/-- Settles O43, by the exits an engine step can take. -/
theorem termTellsWhichExitEndedTheRun : Obligations.TermTellsWhichExitEndedTheRun := by
  intro s hl hst hdone t
  rcases engineStep_running_cases hl with ⟨reason, c, h, hexit, -⟩ | ⟨l2, h, -⟩ | ⟨c, p, v, h, -⟩
  · have ht : t = _ := h
    rw [ht]
    refine ⟨rfl, rfl, hexit.imp ?_ ?_⟩
    · rintro ⟨hr, hb⟩
      exact ⟨hr, by simpa using (budgetMet_iff _).mp hb⟩
    · rintro ⟨hr, h2, hb⟩
      exact ⟨hr, h2, by simpa using (budgetMet_eq_false_iff _).mp hb⟩
  all_goals
    rw [h] at hdone
    exact absurd hdone hst

end Sys2Proof.Machine

/-! # Runs of the engine (spec/42_lattice_reduction.md R191 to R201): the vectors the registers stand for, how a run ends,
and what its result depends on -/

namespace Sys2Proof.Machine

/-! ### What stays as it is over a run -/

/-- A property that every engine step keeps holds after any number of them. -/
theorem engineRun_keeps {P : State → Prop} (hstep : ∀ s, P s → P (engineStep s)) (j : Nat) {s : State} (h : P s) :
    P (engineRun j s) := by
  induction j generalizing s with
  | zero => exact h
  | succ j ih => exact ih (hstep s h)

/-- The same for a property of the state and the exact vectors beside it. -/
theorem exactRun_keeps {P : State → ExactVectors → Prop}
    (hstep : ∀ s g, P s g → P (engineStep s) (exactStep s.eng g)) (j : Nat) {s : State} {g : ExactVectors} (h : P s g) :
    P (engineRun j s) (exactRun j s g) := by
  induction j generalizing s g with
  | zero => exact h
  | succ j ih => exact ih (hstep s g h)

/-- The coordinates have `l0` limbs, and the Gram values one width between them (R43, R44). -/
structure Engine.Aligned (l0 : Nat) (e : Engine) : Prop where
  u0 : e.u0.length = l0
  u1 : e.u1.length = l0
  v0 : e.v0.length = l0
  v1 : e.v1.length = l0
  nv : e.nv.length = e.nu.length
  sp : e.sp.length = e.nu.length

/-- A block in which a reduce runs, or has finished with the vector v in C0 and C1 (R191). -/
structure State.InRun (l0 : Nat) (s : State) : Prop where
  aligned : s.eng.Aligned l0
  phase : (s.st = .busy ∧ s.eng.lstate ≠ .idle) ∨
    (s.st = .done ∧ s.eng.lstate = .idle ∧ lowLimbs s.c0 l0 = s.eng.v0 ∧ lowLimbs s.c1 l0 = s.eng.v1)

section Aligned

variable {l0 : Nat} {e : Engine}

theorem Engine.Shaped.aligned (h : e.Shaped) : e.Aligned (instL0 e.inst) where
  u0 := h.u0
  u1 := h.u1
  v0 := h.v0
  v1 := h.v1
  nv := h.nv.trans h.nu.symm
  sp := h.sp.trans h.nu.symm

theorem orderVectors_aligned (h : e.Aligned l0) : (orderVectors e).Aligned l0 := by
  rcases orderVectors_cases e with ⟨-, he⟩ | ⟨-, he⟩ <;> rw [he]
  · exact h
  · exact ⟨h.v0, h.v1, h.u0, h.u1, h.nv.symm, h.sp.trans h.nv.symm⟩

theorem reduceVector_aligned (h : e.Aligned l0) : (reduceVector e).Aligned l0 where
  u0 := by simp [h.u0]
  u1 := by simp [h.u1]
  v0 := by simp [h.v0]
  v1 := by simp [h.v1]
  nv := by simp [h.nv]
  sp := by simp [h.sp]

theorem shrink_aligned (l2 : Nat) (h : e.Aligned l0) : (shrink l2 e).Aligned l0 :=
  { h with
    nv := by simp [shrink, h.nv]
    sp := by simp [shrink, h.sp] }

end Aligned

/-- An engine step keeps a run a run, or finishes it (R191). -/
theorem State.InRun.engineStep {l0 : Nat} {s : State} (hl0 : l0 ≤ 8) (h : s.InRun l0) : (engineStep s).InRun l0 := by
  have ho := orderVectors_aligned h.aligned
  rcases h.phase with ⟨hst, hl⟩ | ⟨-, hl, -⟩
  · rcases engineStep_running_cases hl with ⟨reason, c, hs, -⟩ | ⟨l2, hs, -⟩ | ⟨c, p, v, hs, -⟩ <;> rw [hs]
    · refine ⟨{ ho with }, .inr ⟨rfl, rfl, ?_, ?_⟩⟩
      · exact ho.v0 ▸ lowLimbs_storeLow s.c0 _ (ho.v0.trans_le hl0)
      · exact ho.v1 ▸ lowLimbs_storeLow s.c1 _ (ho.v1.trans_le hl0)
    · exact ⟨shrink_aligned l2 ho, .inl ⟨hst, by simp [shrink]⟩⟩
    · exact ⟨reduceVector_aligned { ho with }, .inl ⟨hst, by simpa using hl⟩⟩
  · rwa [engineStep_of_idle hl]

/-- The result of a finished run is its vector v (R191). -/
theorem State.InRun.result {l0 : Nat} {s : State} (h : s.InRun l0) (hdone : s.st = .done) :
    lowLimbs s.c0 l0 = s.eng.v0 ∧ lowLimbs s.c1 l0 = s.eng.v1 := by
  rcases h.phase with ⟨hst, -⟩ | ⟨-, -, hc⟩
  · cases hst.symm.trans hdone
  · exact hc

/-- A coordinate fits C0 and C1 (R12, R31). -/
theorem instL0_le (i : Inst) : instL0 i ≤ 8 := by cases i <;> decide

/-- The state in which a `reduce` for the instantiation `i` has started (R172 to R176). -/
def startedReduce (i : Inst) (s : State) : State :=
  { s with
    st := .busy
    term := .none
    eng := initEngine i (lowLimbs s.a (instL1 i)) (lowLimbs s.b (instL1 i)) s.sReg s.eng }

section Started

variable {w : Width} {i : Inst} {s t : State}

theorem startedReduce_accepted (i : Inst) (s : State) :
    (startedReduce i s).eng.Accepted i (uval (lowLimbs s.a (instL1 i))) (uval (lowLimbs s.b (instL1 i))) s.sReg :=
  initEngine_accepted (length_lowLimbs_instL1 s.a i) (length_lowLimbs_instL1 s.b i) s.sReg s.eng

/-- A reduce that has started is a run. -/
theorem startedReduce_inRun (i : Inst) (s : State) : (startedReduce i s).InRun (instL0 i) :=
  ⟨(initEngine_shaped (length_lowLimbs_instL1 s.a i) (length_lowLimbs_instL1 s.b i) s.sReg s.eng).aligned,
    .inl ⟨rfl, nofun⟩⟩

theorem exec_reduce_of_lt (hw : instOfWidth w = some i)
    (h : uval (lowLimbs s.a (instL1 i)) < uval (lowLimbs s.b (instL1 i))) :
    exec (.reduce w) s = .next (startedReduce i s) := by
  simp [exec_reduce, acceptReduce, hw, operandA, operandB, widthLimbs_of_instOfWidth hw, lessThan, h, startedReduce]

/-- A `reduce` after which ST is BUSY has started, and its k is below its n (R172). -/
theorem eq_startedReduce_of_busy (hw : instOfWidth w = some i) (ht : exec (.reduce w) s = .next t) (hb : t.st = .busy) :
    t = startedReduce i s ∧ uval (lowLimbs s.a (instL1 i)) < uval (lowLimbs s.b (instL1 i)) := by
  rcases Nat.lt_or_ge (uval (lowLimbs s.a (instL1 i))) (uval (lowLimbs s.b (instL1 i))) with h | h
  · exact ⟨(Host.Outcome.next.inj ((exec_reduce_of_lt hw h).symm.trans ht)).symm, h⟩
  · obtain rfl := Host.Outcome.next.inj ht
    simp [acceptReduce_kGeN hw s.sReg h] at hb

end Started

/-! ### The exact vectors are a basis of the lattice (R192) -/

/-- The two vectors are u = α·(n, 0) + β·(k, 1) and v = γ·(n, 0) + δ·(k, 1) with αδ − βγ = ±1, a basis of the lattice. -/
def ExactVectors.IsBasis (k n : Int) (g : ExactVectors) : Prop :=
  ∃ α β γ δ, g = ⟨α * n + β * k, β, γ * n + δ * k, δ⟩ ∧ (α * δ - β * γ = 1 ∨ α * δ - β * γ = -1)

/-- Part 4 adds the same multiple of v to the exact vectors as to the registers. -/
theorem exactReduce_eq (e : Engine) (g : ExactVectors) :
    exactReduce e g =
      { g with ux := g.ux + partFourMultiple e * g.vx, uy := g.uy + partFourMultiple e * g.vy } := by
  unfold exactReduce
  split
  · next h =>
    rw [partFourMultiple, if_pos h, shiftAmount, ExactVectors.mk.injEq]
    exact ⟨by ring, by ring, rfl, rfl⟩
  · next h =>
    rw [partFourMultiple, if_neg h, shiftAmount, ExactVectors.mk.injEq]
    exact ⟨by ring, by ring, rfl, rfl⟩

section IsBasis

variable {k n : Int} {e : Engine} {g : ExactVectors}

theorem exactStart_isBasis (k n : Int) : (exactStart k n).IsBasis k n :=
  ⟨1, 0, 0, 1, by simp [exactStart], by simp⟩

theorem exactOrder_isBasis (h : g.IsBasis k n) : (exactOrder e g).IsBasis k n := by
  rcases exactOrder_cases e g with ⟨-, hg⟩ | ⟨-, hg⟩ <;> rw [hg]
  · exact h
  · obtain ⟨α, β, γ, δ, rfl, hdet⟩ := h
    exact ⟨γ, δ, α, β, rfl, hdet.symm.imp (fun h => by linarith) fun h => by linarith⟩

theorem exactReduce_isBasis (h : g.IsBasis k n) : (exactReduce e g).IsBasis k n := by
  obtain ⟨α, β, γ, δ, rfl, hdet⟩ := h
  refine ⟨α + partFourMultiple e * γ, β + partFourMultiple e * δ, γ, δ, ?_, ?_⟩
  · rw [exactReduce_eq]
    congr 1
    ring
  · convert hdet using 2 <;> ring

theorem exactStep_isBasis (h : g.IsBasis k n) : (exactStep e g).IsBasis k n := by
  unfold exactStep
  split
  · exact h
  · dsimp only
    split
    · exact exactReduce_isBasis (exactOrder_isBasis h)
    · exact exactOrder_isBasis h

end IsBasis

/-! ### The registers stand for the exact vectors (R192, R193) -/

/-- The coordinates are those of the exact vectors, and the Gram values their norms and their product, each modulo 2 to the
width of its register. -/
structure Engine.StandsFor (g : ExactVectors) (e : Engine) : Prop where
  u0 : (uval e.u0 : Int) ≡ g.ux [ZMOD 2 ^ bitWidth e.u0]
  u1 : (uval e.u1 : Int) ≡ g.uy [ZMOD 2 ^ bitWidth e.u1]
  v0 : (uval e.v0 : Int) ≡ g.vx [ZMOD 2 ^ bitWidth e.v0]
  v1 : (uval e.v1 : Int) ≡ g.vy [ZMOD 2 ^ bitWidth e.v1]
  nu : (uval e.nu : Int) ≡ g.ux ^ 2 + g.uy ^ 2 [ZMOD 2 ^ bitWidth e.nu]
  nv : (uval e.nv : Int) ≡ g.vx ^ 2 + g.vy ^ 2 [ZMOD 2 ^ bitWidth e.nv]
  sp : (uval e.sp : Int) ≡ g.ux * g.vx + g.uy * g.vy [ZMOD 2 ^ bitWidth e.sp]

/-- The low limbs stand for the same value, modulo 2 to their own width. -/
theorem modEq_take {x : Limbs} {a : Int} (l : Nat) (h : (uval x : Int) ≡ a [ZMOD 2 ^ bitWidth x]) :
    (uval (x.take l) : Int) ≡ a [ZMOD 2 ^ bitWidth (x.take l)] := by
  rcases Nat.le_total l x.length with hl | hl
  · have hlen : (x.take l).length = l := List.length_take_of_le hl
    have hdvd : (2 : Int) ^ (32 * l) ∣ 2 ^ bitWidth x := pow_dvd_pow 2 (Nat.mul_le_mul_left 32 hl)
    rw [bitWidth, hlen, uval_take]
    push_cast
    exact (Int.mod_modEq _ _).trans (h.of_dvd hdvd)
  · rwa [List.take_of_length_le hl]

section StandsFor

variable {l0 : Nat} {e : Engine} {g : ExactVectors}

theorem orderVectors_standsFor (h : e.StandsFor g) : (orderVectors e).StandsFor (exactOrder e g) := by
  rcases exactOrder_cases e g with ⟨he, hg⟩ | ⟨he, hg⟩ <;> rw [he, hg]
  · exact h
  · exact ⟨h.v0, h.v1, h.u0, h.u1, h.nv, h.nu, by simpa [mul_comm] using h.sp⟩

theorem shrink_standsFor (l2 : Nat) (h : e.StandsFor g) : (shrink l2 e).StandsFor g :=
  { h with
    nu := modEq_take l2 h.nu
    nv := modEq_take l2 h.nv
    sp := modEq_take l2 h.sp }

/-- Part 4 by the identities of R192: |u + m·v|² = |u|² + m²·|v|² + 2m·(u·v) and (u + m·v)·v = u·v + m·|v|². -/
theorem reduceVector_standsFor (ha : e.Aligned l0) (h : e.StandsFor g) : (reduceVector e).StandsFor (exactReduce e g) := by
  have hnv : e.nu.length = e.nv.length := ha.nv.symm
  have hsp : e.nu.length = e.sp.length := ha.sp.symm
  have hwidth {x y : Limbs} (hl : y.length = x.length) {a : Int} (hy : (uval y : Int) ≡ a [ZMOD 2 ^ bitWidth y]) :
      (uval y : Int) ≡ a [ZMOD 2 ^ bitWidth x] := by rwa [bitWidth, ← hl]
  rw [exactReduce_eq]
  exact
    { u0 := (reduceVector_u0_modEq (ha.u0.trans ha.v0.symm)).trans
        ((hwidth (by simp) h.u0).add ((hwidth (by simp [ha.u0, ha.v0]) h.v0).mul_left _))
      u1 := (reduceVector_u1_modEq (ha.u1.trans ha.v1.symm)).trans
        ((hwidth (by simp) h.u1).add ((hwidth (by simp [ha.u1, ha.v1]) h.v1).mul_left _))
      v0 := by simpa using h.v0
      v1 := by simpa using h.v1
      nu := by
        refine (reduceVector_nu_modEq hnv hsp).trans ((((hwidth (by simp) h.nu).add
          ((hwidth (by simp [hnv]) h.nv).mul_left _)).add ((hwidth (by simp [hsp]) h.sp).mul_left _)).trans ?_)
        ring_nf
        rfl
      nv := by simpa using h.nv
      sp := by
        refine (reduceVector_sp_modEq (hsp.symm.trans hnv)).trans
          (((hwidth (by simp) h.sp).add ((hwidth (by simp [← hsp, hnv]) h.nv).mul_left _)).trans ?_)
        ring_nf
        rfl }

/-- Whatever an engine step does, the registers stand for the exact vectors after it (R192, R193). -/
theorem engineStep_standsFor {s : State} (hr : s.InRun l0) (h : s.eng.StandsFor g) :
    (engineStep s).eng.StandsFor (exactStep s.eng g) := by
  have ho := orderVectors_standsFor h
  by_cases hl : s.eng.lstate = .idle
  · rwa [engineStep_of_idle hl, exactStep_idle g hl]
  · rcases engineStep_running_cases hl with ⟨reason, c, hs, -, hg⟩ | ⟨l2, hs, hg⟩ | ⟨c, p, v, hs, hg⟩ <;> rw [hs, hg]
    · exact { ho with }
    · exact shrink_standsFor l2 ho
    · exact reduceVector_standsFor (e := { orderVectors s.eng with stallc := c, prevbl := p, prevv := v })
        { orderVectors_aligned hr.aligned with } { ho with }

end StandsFor

/-! ### Values modulo 2 to the width (R15) -/

section Values

variable {x : Limbs} {l : Nat} {a : Int} (hl : x.length = l) (h : (uval x : Int) ≡ a [ZMOD 2 ^ bitWidth x])
include hl h

theorem uval_eq_emod_of_modEq : (uval x : Int) = a % 2 ^ (32 * l) := by
  subst hl
  have hlt : (uval x : Int) < 2 ^ (32 * x.length) := by exact_mod_cast uval_lt x
  exact (Int.emod_eq_of_lt (by positivity) hlt).symm.trans h

/-- The two's-complement value is the residue nearest to 0, so it is exact when, and only when, the value fits. -/
theorem sval_eq_iff_of_modEq (hpos : 0 < l) : sval x = a ↔ -2 ^ (32 * l - 1) ≤ a ∧ a < 2 ^ (32 * l - 1) := by
  subst hl
  have hhalf : (2 : Int) ^ bitWidth x = 2 * 2 ^ (32 * x.length - 1) :=
    (mul_pow_sub_one (n := 32 * x.length) (by omega) 2).symm
  have hlt : (uval x : Int) < 2 ^ bitWidth x := by exact_mod_cast uval_lt x
  have hneg : isNegative x = true ↔ (2 : Int) ^ bitWidth x ≤ 2 * uval x := by
    rw [isNegative_iff x (List.ne_nil_of_length_pos hpos)]
    exact_mod_cast Iff.rfl
  have hmod : sval x ≡ a [ZMOD 2 ^ bitWidth x] := by
    refine Int.ModEq.trans ?_ h
    unfold sval
    split
    · simp [Int.ModEq]
    · rfl
  have hrange : -2 ^ (32 * x.length - 1) ≤ sval x ∧ sval x < 2 ^ (32 * x.length - 1) := by
    unfold sval
    split
    · next hs => have := hneg.mp hs; omega
    · next hs => have := mt hneg.mpr hs; omega
  refine ⟨fun heq => heq ▸ hrange, fun ha => ?_⟩
  have hclose : |a - sval x| < 2 ^ bitWidth x := by
    rw [abs_lt]
    omega
  have hzero := Int.eq_zero_of_abs_lt_dvd hmod.dvd hclose
  omega

end Values

/-! ### What a basis of the lattice says of its vectors (R192) -/

namespace ExactVectors.IsBasis

variable {k n : Int} {g : ExactVectors}

theorem dvd_v (h : g.IsBasis k n) : n ∣ g.vx - k * g.vy := by
  obtain ⟨α, β, γ, δ, rfl, -⟩ := h
  exact ⟨γ, by ring⟩

theorem dvd_u (h : g.IsBasis k n) : n ∣ g.ux - k * g.uy := by
  obtain ⟨α, β, γ, δ, rfl, -⟩ := h
  exact ⟨α, by ring⟩

theorem det (h : g.IsBasis k n) : g.ux * g.vy - g.uy * g.vx = n ∨ g.ux * g.vy - g.uy * g.vx = -n := by
  obtain ⟨α, β, γ, δ, rfl, hdet⟩ := h
  refine hdet.imp (fun h1 => ?_) fun h1 => ?_
  · linear_combination n * h1
  · linear_combination n * h1

theorem v_ne_zero (h : g.IsBasis k n) (hn : n ≠ 0) : g.vx ≠ 0 ∨ g.vy ≠ 0 := by
  by_contra hv
  obtain ⟨hx, hy⟩ : g.vx = 0 ∧ g.vy = 0 := by simpa using hv
  have hdet := h.det
  rw [hx, hy] at hdet
  omega

end ExactVectors.IsBasis

/-- At acceptance the registers stand for (n, 0) and (k, 1) (R173, R174). -/
theorem Engine.Accepted.standsFor {i : Inst} {k n : Nat} {budget : Word} {e : Engine} (h : e.Accepted i k n budget) :
    e.StandsFor (exactStart k n) where
  u0 := by
    rw [h.u0.2, bitWidth, h.u0.1]
    push_cast
    exact Int.mod_modEq _ _
  u1 := by rw [h.u1.2]; rfl
  v0 := by
    rw [h.v0.2, bitWidth, h.v0.1]
    push_cast
    exact Int.mod_modEq _ _
  v1 := by rw [h.v1.2]; rfl
  nu := by rw [h.nu.2]; simp [exactStart, sq]
  nv := by rw [h.nv.2]; simp [exactStart, sq]
  sp := by rw [h.sp.2]; simp [exactStart]

/-- The invariant of R192 and R193 is that the registers stand for a basis. -/
theorem represents_iff {k n α β γ δ : Int} {e : Engine} :
    e.Represents k n α β γ δ ↔
      e.StandsFor ⟨α * n + β * k, β, γ * n + δ * k, δ⟩ ∧ (α * δ - β * γ = 1 ∨ α * δ - β * γ = -1) :=
  ⟨fun h => ⟨⟨h.u0, h.u1, h.v0, h.v1, h.nu, h.nv, h.sp⟩, h.basis⟩,
    fun ⟨h, hb⟩ => ⟨h.u0, h.u1, h.v0, h.v1, h.nu, h.nv, h.sp, hb⟩⟩

/-! ### Two runs of one reduce (R197) -/

/-- Two states in which the same reduce runs, or has finished in the same way. -/
structure SameRun (s1 s2 : State) : Prop where
  st : s1.st = s2.st
  term : s1.term = s2.term
  eng : s1.eng.settled = s2.eng.settled

/-- The two engines agree on every register that `settled` keeps. -/
theorem SameRun.register {β : Type} {s1 s2 : State} (h : SameRun s1 s2) (f : Engine → β)
    (hf : ∀ e, f e.settled = f e) : f s1.eng = f s2.eng := by
  rw [← hf s1.eng, h.eng, hf]

theorem applyIteration_sameRun {i1 i2 : Iteration} {s1 s2 : State} (h : SameRun s1 s2)
    (hi : i1.map Engine.settled = i2.map Engine.settled) : SameRun (applyIteration i1 s1) (applyIteration i2 s2) := by
  cases i1 <;> cases i2 <;> simp only [Iteration.map, reduceCtorEq, Iteration.goesOn.injEq, Iteration.finishes.injEq] at hi
  case goesOn.goesOn => exact ⟨h.st, h.term, hi⟩
  case finishes.finishes => exact ⟨rfl, hi.1, congrArg (fun e : Engine => { e with lstate := .idle }) hi.2⟩

theorem SameRun.engineStep {s1 s2 : State} (h : SameRun s1 s2) : SameRun (engineStep s1) (engineStep s2) := by
  have hl : s1.eng.lstate = s2.eng.lstate := h.register Engine.lstate fun _ => rfl
  have hi : s1.eng.inst = s2.eng.inst := h.register Engine.inst fun _ => rfl
  cases h2 : s2.eng.lstate with
  | idle => rwa [engineStep_of_idle h2, engineStep_of_idle (hl.trans h2)]
  | p1 =>
    rw [engineStep_of_p1 h2, engineStep_of_p1 (hl.trans h2), hi]
    exact applyIteration_sameRun h (by rw [← settled_unseen.phase1_map, h.eng, settled_unseen.phase1_map])
  | p2 =>
    rw [engineStep_of_p2 h2, engineStep_of_p2 (hl.trans h2)]
    exact applyIteration_sameRun h (by rw [← settled_unseen.phase2_map, h.eng, settled_unseen.phase2_map])

theorem SameRun.engineRun (j : Nat) {s1 s2 : State} (h : SameRun s1 s2) :
    SameRun (engineRun j s1) (engineRun j s2) := by
  induction j generalizing s1 s2 with
  | zero => exact h
  | succ j ih => exact ih h.engineStep

/-! ### Phase 2 comes to an end (R186, R188, R190) -/

/-- What the guard uses up in every phase-2 iteration that goes on: a decrease of the bit length of sp, or one of the three
equalities a bit length may have. Before the guard has a bit length, more than any it can get. -/
def guardMeasure (e : Engine) : Nat := if e.prevv then 4 * e.prevbl + (3 - e.stallc) else 4100

theorem guardMeasure_of_prevv {e : Engine} (h : e.prevv = true) : guardMeasure e = 4 * e.prevbl + (3 - e.stallc) :=
  if_pos h

theorem guardMeasure_le {e : Engine} (h : e.prevbl ≤ 1024) : guardMeasure e ≤ 4100 := by
  unfold guardMeasure
  split <;> omega

/-- The guard lets a run go on only at the cost of its measure. -/
theorem guardMeasure_lt {e e2 : Engine} (hsp : bitLength e.sp ≤ 1024) (h : guardStep e = .goesOn e2) :
    guardMeasure e2 < guardMeasure e := by
  rcases guardStep_verdicts e with ⟨-, -, hg⟩ | ⟨hv, hb, hc, hg⟩ | ⟨hr, hg⟩ <;> cases hg.symm.trans h
  · rw [guardMeasure_of_prevv hv, guardMeasure_of_prevv rfl]
    dsimp only
    omega
  · rw [guardMeasure_of_prevv rfl]
    unfold guardMeasure
    split
    · next hv =>
      simp only [hv, reduceCtorEq, false_or] at hr
      dsimp only
      omega
    · dsimp only
      omega

/-- A phase-2 step finishes the run, or the run goes on in phase 2 with a lower measure. -/
theorem engineStep_finishes_or_guardMeasure_lt {s : State} (hs : s.Coherent) (hl : s.eng.lstate = .p2) :
    (engineStep s).st = .done ∨
      ((engineStep s).eng.lstate = .p2 ∧ guardMeasure (engineStep s).eng < guardMeasure s.eng) := by
  have hne : s.eng.lstate ≠ .idle := by simp [hl]
  have hrunning := orderVectors_running ⟨hne, hs.shaped hne, hs.prevbl⟩
  have hmeasure : guardMeasure (orderVectors s.eng) = guardMeasure s.eng := by simp [guardMeasure]
  rw [engineStep_of_p2 hl, ← hmeasure]
  rcases phase2_cases s.eng with ⟨-, hp⟩ | ⟨-, e2, -, hp⟩ | ⟨-, e2, hg, hp⟩ <;> rw [hp]
  · exact .inl rfl
  · exact .inl rfl
  · have hlt := guardMeasure_lt hrunning.bitLength_sp_le hg
    obtain ⟨c, p, v, rfl⟩ := guardStep_goesOn_eq hg
    exact .inr ⟨by simp [applyIteration, hl], by simpa [applyIteration, guardMeasure] using hlt⟩

/-- A phase-2 run finishes within one step more than its measure. -/
theorem exists_done_of_guardMeasure_le (m : Nat) {s : State} (hs : s.Coherent) (hl : s.eng.lstate = .p2)
    (hm : guardMeasure s.eng ≤ m) : ∃ j, j ≤ m + 1 ∧ (engineRun j s).st = .done := by
  induction m generalizing s with
  | zero =>
    rcases engineStep_finishes_or_guardMeasure_lt hs hl with h | ⟨-, h⟩
    · exact ⟨1, le_rfl, h⟩
    · omega
  | succ m ih =>
    rcases engineStep_finishes_or_guardMeasure_lt hs hl with h | ⟨hl', h⟩
    · exact ⟨1, by omega, h⟩
    · obtain ⟨j, hj, hdone⟩ := ih (engineStep_coherent hs) hl' (by omega)
      exact ⟨j + 1, by omega, hdone⟩

/-! ### The run of R194 that stays in phase 1 -/

/-- The norm of u at acceptance in the worked case of R194. -/
def stuckNorm : Nat := (2 ^ 255 - 19) * (2 ^ 255 - 19)

/-- The two states the Gram registers of the worked case alternate between: v = (0, 1) throughout, and u orthogonal to v, or
one subtraction of v past it (R194). -/
structure Engine.Stuck (e : Engine) : Prop where
  lstate : e.lstate = .p1
  inst : e.inst = .i256
  maxbl : e.maxbl = 0
  nv : e.nv = natLimbs 16 1
  turn : (e.nu = natLimbs 16 stuckNorm ∧ e.sp = natLimbs 16 0) ∨
    (e.first = false ∧ e.nu = natLimbs 16 (stuckNorm + 1) ∧ e.sp = limbsOf 16 (-1))

theorem instL2_i256_mem : instL2 .i256 ∈ [10, 12, 14] := instL2_mem_choices .i256

namespace Engine.Stuck

variable {e : Engine} (h : e.Stuck)
include h

theorem nu_mem : e.nu ∈ [natLimbs 16 stuckNorm, natLimbs 16 (stuckNorm + 1)] := by
  rcases h.turn with ⟨hnu, -⟩ | ⟨-, hnu, -⟩ <;> simp [hnu]

/-- There is nothing to exchange. -/
theorem orderVectors : orderVectors e = e := by
  have hlt : ∀ nu ∈ [natLimbs 16 stuckNorm, natLimbs 16 (stuckNorm + 1)], lessThan nu (natLimbs 16 1) = false := by decide
  simp [Machine.orderVectors, h.nv, hlt _ h.nu_mem]

/-- The bit length of nv is 1, above the budget 0. -/
theorem budgetMet : budgetMet e = false := by
  rw [budgetMet_eq_false_iff, h.nv, h.maxbl]
  decide

/-- nu fits below no admissible N2. -/
theorem fitsBelow : fitsBelow e.nu (instL2 e.inst) = false := by
  have hfits : ∀ nu ∈ [natLimbs 16 stuckNorm, natLimbs 16 (stuckNorm + 1)], ∀ l2 ∈ [10, 12, 14],
      Machine.fitsBelow nu l2 = false := by decide
  rw [h.inst]
  exact hfits _ h.nu_mem _ instL2_i256_mem

/-- In both states the shift is 0. -/
theorem shiftAmount : shiftAmount e = 0 := by
  rcases h.turn with ⟨-, hsp⟩ | ⟨-, -, hsp⟩ <;> rw [Machine.shiftAmount, hsp, h.nv] <;> decide

/-- Part 4 goes from each of the two states to the other: n² + 1 and −1 by subtracting, n² and 0 by adding. -/
theorem reduceVector : (reduceVector e).Stuck := by
  have hnv := h.nv
  refine ⟨by simp [h.lstate], by simp [h.inst], by simp [h.maxbl], by simp [hnv], ?_⟩
  rcases h.turn with ⟨hnu, hsp⟩ | ⟨hf, hnu, hsp⟩
  · have hpos : isNegative e.sp = false := by
      rw [hsp]
      decide
    rw [reduceVector_of_subtracts (.inr hpos), h.shiftAmount]
    simp only [subtractStep, hnu, hnv, hsp]
    exact .inr ⟨trivial, by decide, by decide⟩
  · have hneg : isNegative e.sp = true := by
      rw [hsp]
      decide
    rw [reduceVector_of_adds ⟨hf, hneg⟩, h.shiftAmount]
    simp only [addStep, hnu, hnv, hsp]
    exact .inl ⟨by decide, by decide⟩

end Engine.Stuck

theorem engineStep_of_stuck {s : State} (h : s.eng.Stuck) : engineStep s = { s with eng := reduceVector s.eng } := by
  rw [engineStep_of_p1 h.lstate,
    phase1_of_not_fitsBelow (by rw [h.orderVectors, h.budgetMet]) (by rw [h.orderVectors, h.fitsBelow]),
    h.orderVectors, applyIteration]

/-! ### The statements -/

/-- Settles O40: the registers go on standing for the exact vectors, and those stay a basis. -/
theorem engineStepKeepsLatticeBasis : Obligations.EngineStepKeepsLatticeBasis := by
  intro s k n α β γ δ hs hl hrep t
  obtain ⟨hstands, hdet⟩ := represents_iff.mp hrep
  have hrun : s.InRun (instL0 s.eng.inst) := ⟨(hs.shaped hl).aligned, .inl ⟨hs.busy.mpr hl, hl⟩⟩
  have hstands' : t.eng.StandsFor _ := engineStep_standsFor hrun hstands
  have hrun' : t.InRun _ := hrun.engineStep (instL0_le _)
  obtain ⟨α', β', γ', δ', hg, hdet'⟩ := exactStep_isBasis (e := s.eng) (k := k) (n := n) ⟨α, β, γ, δ, rfl, hdet⟩
  rw [hg] at hstands'
  refine ⟨α', β', γ', δ', represents_iff.mpr ⟨hstands', hdet'⟩, fun hdone => ?_⟩
  obtain ⟨hc0, hc1⟩ := hrun'.result hdone
  rw [hc0, hc1]
  have hv0 := hstands'.v0
  have hv1 := hstands'.v1
  rw [bitWidth, hrun'.aligned.v0] at hv0
  rw [bitWidth, hrun'.aligned.v1] at hv1
  exact ⟨hv0, hv1⟩

/-- Settles O41: after any number of steps the registers stand for the exact vectors, a basis; the finish delivers v. -/
theorem finishedReduceReturnsLatticeVector : Obligations.FinishedReduceReturnsLatticeVector := by
  intro w i s t j hw ht hb hdone k n r g c0 c1 half
  obtain ⟨rfl, hlt⟩ := eq_startedReduce_of_busy hw ht hb
  obtain ⟨hrun, hstands⟩ : r.InRun (instL0 i) ∧ r.eng.StandsFor g :=
    exactRun_keeps (P := fun s g => s.InRun (instL0 i) ∧ s.eng.StandsFor g)
      (fun _ _ h => ⟨h.1.engineStep (instL0_le i), engineStep_standsFor h.1 h.2⟩) j
      ⟨startedReduce_inRun i s, (startedReduce_accepted i s).standsFor⟩
  have hbasis : g.IsBasis k n :=
    exactRun_keeps (P := fun _ g => g.IsBasis k n) (fun _ _ => exactStep_isBasis) j (exactStart_isBasis k n)
  have hn : n ≠ 0 := by omega
  obtain ⟨hc0, hc1⟩ : c0 = r.eng.v0 ∧ c1 = r.eng.v1 := hrun.result hdone
  have hpos := (instL_order i).1
  rw [hc0, hc1]
  exact ⟨uval_eq_emod_of_modEq hrun.aligned.v0 hstands.v0, uval_eq_emod_of_modEq hrun.aligned.v1 hstands.v1,
    sval_eq_iff_of_modEq hrun.aligned.v0 hstands.v0 hpos, sval_eq_iff_of_modEq hrun.aligned.v1 hstands.v1 hpos,
    hbasis.dvd_v, hbasis.dvd_u, hbasis.det, hbasis.v_ne_zero hn, hstands.nv⟩

/-- Settles O45: n² is at least k² + 1, so nothing is exchanged, and the budget is met. -/
theorem largeBudgetFinishesAtFirstStep : Obligations.LargeBudgetFinishesAtFirstStep := by
  intro w i s hw k n hlt hbudget
  have he : (startedReduce i s).eng.Accepted i k n s.sReg := startedReduce_accepted i s
  have hrun := (startedReduce_inRun i s).engineStep (instL0_le i)
  have hk : k < 2 ^ (32 * instL1 i) := length_lowLimbs_instL1 s.a i ▸ uval_lt (lowLimbs s.a (instL1 i))
  have hnv : (startedReduce i s).eng.nv = natLimbs (instL3 i) (k ^ 2 + 1) := by
    refine uval_inj (by simp [he.nv.1]) ?_
    rw [he.nv.2, sq, uval_natLimbs_of_lt (sq_succ_lt_two_pow_instL3 hk)]
  have horder : orderVectors (startedReduce i s).eng = (startedReduce i s).eng :=
    orderVectors_of_le (by rw [he.nv.2, he.nu.2]; nlinarith)
  have hmet : budgetMet (orderVectors (startedReduce i s).eng) = true := by
    rwa [horder, budgetMet_iff, hnv]
  have hstep : engineStep (startedReduce i s) = finishRun .budget (startedReduce i s).eng (startedReduce i s) := by
    rw [engineStep_of_p1 rfl, phase1_of_budgetMet hmet, horder, applyIteration]
  rw [hstep] at hrun
  obtain ⟨hc0, hc1⟩ := hrun.result rfl
  refine ⟨_, exec_reduce_of_lt hw hlt, rfl, ?_⟩
  rw [hstep]
  refine ⟨rfl, rfl, ?_, ?_, fun m hm => ⟨?_, ?_⟩⟩
  · rw [hc0]
    exact he.v0.2
  · rw [hc1]
    exact he.v1.2
  · simp [he.v0.1, hm]
    rfl
  · simp [he.v1.1, hm]
    rfl

/-- Settles O46: the guard's measure is at most 4100 in phase 2. -/
theorem phaseTwoAlwaysFinishes : Obligations.PhaseTwoAlwaysFinishes := fun _ hs hl =>
  exists_done_of_guardMeasure_le 4100 hs hl (guardMeasure_le hs.prevbl)

/-- Settles O47: acceptance starts the run in the first of the two states it then alternates between. -/
theorem budgetZeroRunNeverLeavesPhaseOne : Obligations.BudgetZeroRunNeverLeavesPhaseOne := by
  intro s hk hn hbudget
  have hlt : uval (lowLimbs s.a 8) < uval (lowLimbs s.b 8) := by
    rw [hk, hn]
    decide
  have hstuck : (startedReduce .i256 s).eng.Stuck :=
    { lstate := rfl
      inst := rfl
      maxbl := hbudget
      nv := by simp [startedReduce, initEngine, instL1, instL3, hk]
      turn := .inl ⟨by simp [startedReduce, initEngine, instL1, instL3, hn, stuckNorm],
        by simp [startedReduce, initEngine, instL1, instL3, hk]⟩ }
  refine ⟨_, exec_reduce_of_lt (i := .i256) rfl hlt, fun j => ?_⟩
  have hrun := engineRun_keeps (P := fun t => t.st = .busy ∧ t.eng.Stuck)
    (fun t h => by rw [engineStep_of_stuck h.2]; exact ⟨h.1, h.2.reduceVector⟩) j
    (s := startedReduce .i256 s) ⟨rfl, hstuck⟩
  exact ⟨hrun.1, hrun.2.lstate⟩

/-- Settles O48: the two runs are one run but for PREVBL, which nothing reads before the guard has set it. -/
theorem reduceOutcomeDependsOnItsOperandsAlone : Obligations.ReduceOutcomeDependsOnItsOperandsAlone := by
  intro w i s1 s2 t1 t2 j hw ha hb hs h1 h2 hbusy
  obtain ⟨rfl, hlt⟩ := eq_startedReduce_of_busy hw h1 hbusy
  rw [ha, hb] at hlt
  obtain rfl := Host.Outcome.next.inj ((exec_reduce_of_lt hw hlt).symm.trans h2)
  have hsame : SameRun (startedReduce i s1) (startedReduce i s2) := by
    refine ⟨rfl, rfl, ?_⟩
    simp only [startedReduce, ha, hb, hs]
    rfl
  have hrun := hsame.engineRun j
  have hin (s : State) : (engineRun j (startedReduce i s)).InRun (instL0 i) :=
    engineRun_keeps (fun _ h => h.engineStep (instL0_le i)) j (startedReduce_inRun i s)
  refine ⟨rfl, hrun.st, hrun.term, fun hdone => ?_⟩
  obtain ⟨hc0, hc1⟩ := (hin s1).result hdone
  obtain ⟨hc0', hc1'⟩ := (hin s2).result (hrun.st ▸ hdone)
  rw [hc0, hc1, hc0', hc1']
  exact ⟨hrun.register Engine.v0 fun _ => rfl, hrun.register Engine.v1 fun _ => rfl⟩

end Sys2Proof.Machine

/-! # Faults (spec/60_exceptions.md R221 to R226) -/

namespace Sys2Proof.Machine

/-! ### A write to CMD while BUSY and in FAULT -/

/-- In FAULT a write to CMD is ignored, whatever the word (R222). -/
theorem writeCmd_of_fault {v : Word} {s : State} (hst : s.st = .fault) : writeCmd v s = .next s := by
  simp [writeCmd, hst]

/-- While BUSY a write to CMD is BUSY_CMD, whatever the word (R222, R223). -/
theorem writeCmd_of_busy {v : Word} {s : State} (hst : s.st = .busy) :
    writeCmd v s = .next (raiseFault .busyCmd s) := by
  simp [writeCmd, hst]

/-! ### Entering FAULT -/

section EnteringFault

variable {s t : State}

/-- A command that ends in FAULT has raised it: one that completes ends in DONE, one that starts a run in BUSY (R224). -/
theorem exec_eq_raiseFault_of_fault {i : Instr} (h : exec i s = .next t) (ht : t.st = .fault) : ∃ c, t = raiseFault c s := by
  rcases exec_cases h with hc | hc | ⟨j, k, n, budget, -, -, rfl⟩
  · exact hc
  · simp [hc.st] at ht
  · cases ht

/-- A write to CMD that enters FAULT raises a fault code and does nothing else (R222, R224). -/
theorem writeCmd_eq_raiseFault_of_fault {v : Word} (h : writeCmd v s = .next t) (hs : s.st ≠ .fault) (ht : t.st = .fault) :
    ∃ c, t = raiseFault c s := by
  rcases writeCmd_cases h with ⟨-, i, -, hi⟩ | ⟨-, c, -, hc⟩ | ⟨-, hc⟩ | ⟨hst, -⟩
  · exact exec_eq_raiseFault_of_fault hi.symm ht
  · exact ⟨c, Host.Outcome.next.inj hc⟩
  · exact ⟨_, Host.Outcome.next.inj hc⟩
  · exact absurd hst hs

/-- The engine raises no fault: its step leaves ST as it is or sets it to DONE (R75, R191, R221). -/
theorem st_fault_of_engineStep (h : (engineStep s).st = .fault) : s.st = .fault := by
  have hrun := engineStep_of_st_ne_done (s := s) (by simp [h])
  rw [hrun] at h
  exact h

theorem waitEvent_st (s : State) : (waitEvent s).st = s.st := congrArg Prod.fst (waitEvent_control s)

/-- The one event that enters FAULT is a write to CMD, and all it does is raise the fault (R221, R224). -/
theorem eventResult_enters_fault {e : Event} (h : eventResult e s = .next t) (hs : s.st ≠ .fault) (ht : t.st = .fault) :
    ∃ v c, e = .write .cmd v ∧ t = raiseFault c s := by
  rcases eventResult_cases h with ⟨r, -, rfl⟩ | ⟨r, v, -, -, rfl⟩ | ⟨v, he, hv⟩ | ⟨-, rfl⟩ | ⟨-, rfl⟩ | ⟨-, rfl⟩ | ⟨-, rfl⟩
  · exact absurd ht hs
  · exact absurd (writeReg_st r v s ▸ ht) hs
  · obtain ⟨c, hc⟩ := writeCmd_eq_raiseFault_of_fault hv hs ht
    exact ⟨v, c, he, hc⟩
  · exact absurd ht hs
  · exact absurd (waitEvent_st s ▸ ht) hs
  · exact absurd (st_fault_of_engineStep ht) hs
  · cases ht

/-- A step that enters FAULT takes a write to CMD from the list of events, and all it does is raise the fault (R221, R224). -/
theorem step_enters_fault (h : step s = .next t) (hs : s.st ≠ .fault) (ht : t.st = .fault) :
    ∃ v rest c, s.inbox = .write .cmd v :: rest ∧ t = raiseFault c { s with inbox := rest } := by
  rcases step_cases h with ⟨-, -, rfl⟩ | ⟨e, rest, hi, -, he⟩
  · exact absurd (st_fault_of_engineStep ht) hs
  · obtain ⟨v, c, rfl, rfl⟩ := eventResult_enters_fault he hs ht
    exact ⟨v, rest, c, hi, rfl⟩

end EnteringFault

/-! ### In FAULT -/

/-- What FAULT freezes: the control fields and the result registers (R226). -/
def State.frozenInFault (s : State) :
    (BlockState × Term × Term × Option CmdFault × Engine) × Word × Word × Word × Bit × Vector Word 8 × Vector Word 8 :=
  (s.control, s.rlo, s.rhi, s.rn, s.cout, s.c0, s.c1)

@[simp] theorem writeReg_frozenInFault (r : Reg) (v : Word) (s : State) :
    (writeReg r v s).frozenInFault = s.frozenInFault := by
  simp [State.frozenInFault]

theorem waitEvent_frozenInFault (s : State) : (waitEvent s).frozenInFault = s.frozenInFault := by
  unfold waitEvent
  split <;> rfl

/-- In FAULT, where the engine is idle, no event but a reset changes what FAULT freezes (R226). -/
theorem eventResult_frozenInFault {e : Event} {s t : State} (hst : s.st = .fault) (hl : s.eng.lstate = .idle)
    (hne : e ≠ .reset) (h : eventResult e s = .next t) : t.frozenInFault = s.frozenInFault := by
  rcases eventResult_cases h with ⟨r, -, rfl⟩ | ⟨r, v, -, -, rfl⟩ | ⟨v, -, hv⟩ | ⟨-, rfl⟩ | ⟨-, rfl⟩ | ⟨-, rfl⟩ | ⟨he, -⟩
  · rfl
  · exact writeReg_frozenInFault r v s
  · obtain rfl := Host.Outcome.next.inj ((writeCmd_of_fault hst).symm.trans hv)
    rfl
  · rfl
  · exact waitEvent_frozenInFault s
  · rw [engineStep_of_idle hl]
  · exact absurd he hne

/-- In FAULT no step but a reset changes what FAULT freezes (R226). -/
theorem step_frozenInFault {s t : State} (hst : s.st = .fault) (hl : s.eng.lstate = .idle)
    (hr : ∀ rest, s.inbox ≠ .reset :: rest) (h : step s = .next t) : t.frozenInFault = s.frozenInFault := by
  rcases step_cases h with ⟨-, -, rfl⟩ | ⟨e, rest, hi, -, he⟩
  · rw [engineStep_of_idle hl]
  · have hne : e ≠ .reset := fun hreset => hr rest (hreset ▸ hi)
    exact eventResult_frozenInFault (s := { s with inbox := rest }) hst hl hne he

/-! ### The statements -/

/-- Settles O51: the step is the write to CMD, and that by ST; in IDLE and DONE by what the word decodes to. -/
theorem commandWriteByBlockState : Obligations.CommandWriteByBlockState := by
  intro s v rest hw hi
  have hstep : step s = writeCmd v { s with inbox := rest } := step_of_inbox_cons hw hi
  rw [hstep]
  refine ⟨fun hst => writeCmd_of_busy hst, fun hst => writeCmd_of_fault hst, fun hst => ?_⟩
  cases hd : decode v with
  | cmd i => exact .inl ⟨i, rfl, writeCmd_of_decode hst hd⟩
  | illegal c => exact .inr ⟨c, rfl, writeCmd_of_illegal hst hd⟩

/-- Settles O52: the next state is the one `raiseFault` gives. -/
theorem faultingStepHasNoPartialEffect : Obligations.FaultingStepHasNoPartialEffect := by
  intro s t h hs ht
  obtain ⟨-, rest, c, -, heq⟩ := step_enters_fault h hs ht
  exact ⟨c, rest, heq⟩

/-- Settles O53: the event that step takes is a write to CMD. -/
theorem onlyCommandWritesRaiseFaults : Obligations.OnlyCommandWritesRaiseFaults := by
  intro s t h hs ht
  obtain ⟨v, rest, -, hi, -⟩ := step_enters_fault h hs ht
  exact ⟨v, rest, hi⟩

/-- Settles O54: coherence makes the engine idle in FAULT, so nothing frozen there changes. -/
theorem faultLastsUntilReset : Obligations.FaultLastsUntilReset := by
  intro s t hs hst hr h
  have hl : s.eng.lstate = .idle := hs.lstate_eq_idle (by simp [hst])
  have hkept := step_frozenInFault hst hl hr h
  simp only [State.frozenInFault, State.control, Prod.mk.injEq] at hkept
  obtain ⟨⟨hst', hterm, hlast, hfcode, heng⟩, hrlo, hrhi, hrn, hcout, hc0, hc1⟩ := hkept
  exact ⟨hst'.trans hst, hfcode, hterm, hlast, hrlo, hrhi, hrn, hcout, hc0, hc1, heng⟩

end Sys2Proof.Machine

/-! # The reset input (spec/70_reset_and_hazards.md R250 to R252) -/

namespace Sys2Proof.Machine

/-- STATUS reads 0 where its three fields are those of R50; `lastTerm` has no part in it, for the block is not BUSY. -/
theorem statusWord_eq_zero {s : State} (hst : s.st = .idle) (hterm : s.term = .none) (hfcode : s.fcode = none) :
    statusWord s = 0 := by
  have hshown : termShown s = .none := (termShown_of_ne (by simp [hst])).trans hterm
  apply BitVec.eq_of_toNat_eq
  rw [toNat_statusWord, hst, hshown, hfcode]
  rfl

/-- After the reset input STATUS reads 0, whatever the state was (R251). -/
@[simp] theorem statusWord_resetEvent (s : State) : statusWord (resetEvent s) = 0 :=
  statusWord_eq_zero (resetEvent_st s) (resetEvent_term s) (resetEvent_fcode s)

/-- A waiting reset is taken in every state, before the first reset too (R250, R253). -/
theorem step_of_inbox_reset {s : State} {rest : List Event} (hi : s.inbox = .reset :: rest) :
    step s = .next (resetEvent { s with inbox := rest }) := by
  simp [step, nextEvent, hi, eventResult]

/-- Settles O7: the step is `resetEvent`, whose fields are read off by its own lemmas. -/
theorem resetEventRestoresControlState : Obligations.ResetEventRestoresControlState := by
  intro s rest hi
  refine ⟨resetEvent { s with inbox := rest }, step_of_inbox_reset hi, ?_⟩
  simp

end Sys2Proof.Machine

/-! # A reduce term at a width no word gives (spec/30_encoding.md R94, R98; notes/assumptions/13.md) -/

namespace Sys2Proof.Machine

/-- The widths a `reduce` does not accept are those that name no instantiation (R94, R12). -/
theorem namesInstantiation_eq_false_iff (w : Width) : w.namesInstantiation = false ↔ instOfWidth w = none := by
  rw [← Bool.not_eq_true, namesInstantiation_iff, Option.eq_none_iff_forall_ne_some, not_exists]

/-- Only the two reduces have terms that are not well-formed: `reduce` where the width names no instantiation, `reduce254` at
every width but 256 (R94, R98). -/
theorem wellFormed_eq_false_iff (i : Instr) :
    i.wellFormed = false ↔
      (∃ w, i = .reduce w ∧ instOfWidth w = none) ∨ (∃ w, i = .reduce254 w ∧ w ≠ .w256) := by
  cases i with
  | reduce w => simp [Instr.wellFormed, namesInstantiation_eq_false_iff]
  | _ => simp [Instr.wellFormed]

/-- Acceptance at a width that names no instantiation refuses the width (R98). -/
theorem acceptReduce_illegalWsel {w : Width} (hw : instOfWidth w = none) (budget : Word) (s : State) :
    acceptReduce w budget s = raiseFault .illegalWsel s := by
  simp [acceptReduce, hw]

/-- `reduce254` at a width other than 256 refuses the width (R199, R98). -/
theorem execReduce254_illegalWsel {w : Width} (hw : w ≠ .w256) (s : State) :
    execReduce254 w s = .next (raiseFault .illegalWsel s) :=
  if_neg hw

/-- Settles O35: the term is a reduce at a width its acceptance refuses, and the next state is the one `raiseFault` gives. -/
theorem reduceAtOtherWidthsFaults : Obligations.ReduceAtOtherWidthsFaults := by
  intro i s hi
  rcases (wellFormed_eq_false_iff i).mp hi with ⟨w, rfl, hw⟩ | ⟨w, rfl, hw⟩
  · exact (exec_reduce w s).trans (congrArg _ (acceptReduce_illegalWsel hw s.sReg s))
  · exact execReduce254_illegalWsel hw s

end Sys2Proof.Machine
